-- ==== Sys2Proof/Word.lean ====
section
/-! DEFINITION. The widths of the machine (rules R7, R10, R71): the names of its bit vectors. All of them are unsigned;
no value is ever sign-extended (rules R10, R81). -/

namespace Sys2Proof

/-- A register `V[i]`, a timer or a memory cell: 8 bits (rules R20, R25, R50). -/
abbrev Byte := BitVec 8

/-- An instruction word, `I`, `PC` or a stack entry: 16 bits (rules R22, R23, R24, R70). -/
abbrev Word := BitVec 16

/-- A 4-bit field of an instruction word (rule R71). -/
abbrev Nibble := BitVec 4

/-- The field `X` or `Y`: it names one of the sixteen registers, so no index is out of range (rule R20). -/
abbrev RegIdx := BitVec 4

/-- The field `NNN`: an immediate 12-bit address (rule R71). -/
abbrev Imm12 := BitVec 12

end Sys2Proof
end

