-- ==== Sys2Proof/Syntax.lean ====
section
/-! DEFINITION. The instructions: one constructor per row of the opcode map (rule R75), in its order, with the operand
fields its format carries (rules R71, R72). The bits the decoder ignores (rule R76) are no operands. -/

namespace Sys2Proof

/-- The 35 operations of rule R75. -/
inductive Instr where
  /-- row 1, `CLS` (rule R140) -/
  | cls
  /-- row 2, `RET` (rule R100) -/
  | ret
  /-- row 3, `JP NNN` (rule R101) -/
  | jp (nnn : Imm12)
  /-- row 4, `CALL NNN` (rule R102) -/
  | call (nnn : Imm12)
  /-- row 5, `SE Vx, NN` (rule R103) -/
  | seByte (x : RegIdx) (nn : Byte)
  /-- row 6, `SNE Vx, NN` (rule R104) -/
  | sneByte (x : RegIdx) (nn : Byte)
  /-- row 7, `SE Vx, Vy` (rule R105) -/
  | seReg (x y : RegIdx)
  /-- row 8, `LD Vx, NN` (rule R110) -/
  | ldByte (x : RegIdx) (nn : Byte)
  /-- row 9, `ADD Vx, NN` (rule R111) -/
  | addByte (x : RegIdx) (nn : Byte)
  /-- row 10, `LD Vx, Vy` (rule R112) -/
  | ldReg (x y : RegIdx)
  /-- row 11, `OR Vx, Vy` (rule R113) -/
  | orReg (x y : RegIdx)
  /-- row 12, `AND Vx, Vy` (rule R114) -/
  | andReg (x y : RegIdx)
  /-- row 13, `XOR Vx, Vy` (rule R115) -/
  | xorReg (x y : RegIdx)
  /-- row 14, `ADD Vx, Vy` (rule R116) -/
  | addReg (x y : RegIdx)
  /-- row 15, `SUB Vx, Vy` (rule R117) -/
  | subReg (x y : RegIdx)
  /-- row 16, `SHR Vx, Vy` (rule R118) -/
  | shrReg (x y : RegIdx)
  /-- row 17, `SUBN Vx, Vy` (rule R119) -/
  | subnReg (x y : RegIdx)
  /-- row 18, `SHL Vx, Vy` (rule R120) -/
  | shlReg (x y : RegIdx)
  /-- row 19, `SNE Vx, Vy` (rule R106) -/
  | sneReg (x y : RegIdx)
  /-- row 20, `LD I, NNN` (rule R130) -/
  | ldI (nnn : Imm12)
  /-- row 21, `JP V0, NNN` (rule R107) -/
  | jpV0 (nnn : Imm12)
  /-- row 22, `RND Vx, NN` (rule R121) -/
  | rnd (x : RegIdx) (nn : Byte)
  /-- row 23, `DRW Vx, Vy, N` (rule R141) -/
  | drw (x y : RegIdx) (n : Nibble)
  /-- row 24, `SKP Vx` (rule R150) -/
  | skp (x : RegIdx)
  /-- row 25, `SKNP Vx` (rule R151) -/
  | sknp (x : RegIdx)
  /-- row 26, `LD Vx, DT` (rule R152) -/
  | ldVxDT (x : RegIdx)
  /-- row 27, `LD Vx, K` (rule R153) -/
  | ldVxK (x : RegIdx)
  /-- row 28, `LD DT, Vx` (rule R154) -/
  | ldDTVx (x : RegIdx)
  /-- row 29, `LD ST, Vx` (rule R155) -/
  | ldSTVx (x : RegIdx)
  /-- row 30, `ADD I, Vx` (rule R131) -/
  | addI (x : RegIdx)
  /-- row 31, `LD F, Vx` (rule R132) -/
  | ldF (x : RegIdx)
  /-- row 32, `LD B, Vx` (rule R133) -/
  | ldB (x : RegIdx)
  /-- row 33, `LD [I], Vx` (rule R134) -/
  | storeRegs (x : RegIdx)
  /-- row 34, `LD Vx, [I]` (rule R135) -/
  | loadRegs (x : RegIdx)
  /-- row 35, `UNKNOWN`: the whole word is kept, for the diagnostic (rule R78) -/
  | unknown (word : Word)
  deriving DecidableEq, Repr

/-- Why a sequence of bytes is no instruction: every 16-bit word decodes (rule R75), so only a missing byte is left. -/
inductive DecodeError where
  /-- fewer than the two bytes of an instruction (rule R70) -/
  | truncated
  deriving DecidableEq, Repr

end Sys2Proof
end

