-- ==== Sys2Proof/WellFormed.lean ====
section
/-! DEFINITION. Which terms of `Instr` are instructions. The operand fields have the widths of rule R71, so every term
is well formed but one kind: `unknown w` stands for words that match no defined row only (rule R77). -/

namespace Sys2Proof

/-- Group 0x0: unknown unless the low byte is that of CLS or RET (rule R77, first row). -/
def unknownGroup0 (w : Word) : Bool :=
  w &&& 0xF000 == 0x0000 && !([0x00E0, 0x00EE] : List Word).contains (w &&& 0x00FF)

/-- Group 0x8: unknown when the low nibble is one of seven values (rule R77, second row). -/
def unknownGroup8 (w : Word) : Bool :=
  w &&& 0xF000 == 0x8000 && ([0x8, 0x9, 0xA, 0xB, 0xC, 0xD, 0xF] : List Word).contains (w &&& 0x000F)

/-- Group 0xE: unknown unless the low byte is that of a key skip (rule R77, third row). -/
def unknownGroupE (w : Word) : Bool :=
  w &&& 0xF000 == 0xE000 && !([0x009E, 0x00A1] : List Word).contains (w &&& 0x00FF)

/-- Group 0xF: unknown unless the low byte is one of nine values (rule R77, fourth row). -/
def unknownGroupF (w : Word) : Bool :=
  w &&& 0xF000 == 0xF000 &&
    !([0x07, 0x0A, 0x15, 0x18, 0x1E, 0x29, 0x33, 0x55, 0x65] : List Word).contains (w &&& 0x00FF)

/-- The unknown words, "exactly" those of rule R77. -/
def unknownWord (w : Word) : Bool :=
  unknownGroup0 w || unknownGroup8 w || unknownGroupE w || unknownGroupF w

/-- A term is an instruction when it is a defined one, or carries a word that is unknown. -/
def Instr.wf : Instr → Bool
  | .unknown w => unknownWord w
  | _ => true

end Sys2Proof
end

