-- ==== Sys2Proof/Decode.lean ====
section
/-! DEFINITION. The decoder (rules R71 to R77) and, after it, the encoder. The decoder classifies by the primary group
and, in four groups, by the secondary selector; the opcode map as mask and match rows (rule R75) stands beside it as
data, so that the two readings can be compared. -/

namespace Sys2Proof

/-! ### The fields of an instruction word (rule R71) -/

/-- `G = instr[15:12]`, the primary group. -/
def fieldG (w : Word) : Nibble := w.extractLsb' 12 4

/-- `X = instr[11:8]`. -/
def fieldX (w : Word) : RegIdx := w.extractLsb' 8 4

/-- `Y = instr[7:4]`. -/
def fieldY (w : Word) : RegIdx := w.extractLsb' 4 4

/-- `N = instr[3:0]`. -/
def fieldN (w : Word) : Nibble := w.extractLsb' 0 4

/-- `NN = instr[7:0]`. -/
def fieldNN (w : Word) : Byte := w.extractLsb' 0 8

/-- `NNN = instr[11:0]`. -/
def fieldNNN (w : Word) : Imm12 := w.extractLsb' 0 12

/-! ### The decoder -/

/-- Group 0x0, selected by the low byte; bits 11:8 are ignored (rules R74, R76). -/
def decodeGroup0 (w : Word) : Instr :=
  if fieldNN w = 0xE0 then .cls
  else if fieldNN w = 0xEE then .ret
  else .unknown w

/-- Group 0x8, selected by the low nibble (rule R74). -/
def decodeGroup8 (w : Word) : Instr :=
  let x := fieldX w
  let y := fieldY w
  if fieldN w = 0x0 then .ldReg x y
  else if fieldN w = 0x1 then .orReg x y
  else if fieldN w = 0x2 then .andReg x y
  else if fieldN w = 0x3 then .xorReg x y
  else if fieldN w = 0x4 then .addReg x y
  else if fieldN w = 0x5 then .subReg x y
  else if fieldN w = 0x6 then .shrReg x y
  else if fieldN w = 0x7 then .subnReg x y
  else if fieldN w = 0xE then .shlReg x y
  else .unknown w

/-- Group 0xE, selected by the low byte (rule R74, decision D3). -/
def decodeGroupE (w : Word) : Instr :=
  if fieldNN w = 0x9E then .skp (fieldX w)
  else if fieldNN w = 0xA1 then .sknp (fieldX w)
  else .unknown w

/-- Group 0xF, selected by the low byte (rule R74, decision D3). -/
def decodeGroupF (w : Word) : Instr :=
  let x := fieldX w
  if fieldNN w = 0x07 then .ldVxDT x
  else if fieldNN w = 0x0A then .ldVxK x
  else if fieldNN w = 0x15 then .ldDTVx x
  else if fieldNN w = 0x18 then .ldSTVx x
  else if fieldNN w = 0x1E then .addI x
  else if fieldNN w = 0x29 then .ldF x
  else if fieldNN w = 0x33 then .ldB x
  else if fieldNN w = 0x55 then .storeRegs x
  else if fieldNN w = 0x65 then .loadRegs x
  else .unknown w

/-- `Decode(instr)` (rules R73 to R76): total on all 65536 words, never faults; a word of no row is `unknown`, by name.
The group and selector values are the customary ones rule R75 supplies (log entry 9). Groups 0x5 and 0x9 ignore bits
3:0 (rule R76, log entry 10). -/
def decode (w : Word) : Instr :=
  let g := fieldG w
  if g = 0x0 then decodeGroup0 w
  else if g = 0x1 then .jp (fieldNNN w)
  else if g = 0x2 then .call (fieldNNN w)
  else if g = 0x3 then .seByte (fieldX w) (fieldNN w)
  else if g = 0x4 then .sneByte (fieldX w) (fieldNN w)
  else if g = 0x5 then .seReg (fieldX w) (fieldY w)
  else if g = 0x6 then .ldByte (fieldX w) (fieldNN w)
  else if g = 0x7 then .addByte (fieldX w) (fieldNN w)
  else if g = 0x8 then decodeGroup8 w
  else if g = 0x9 then .sneReg (fieldX w) (fieldY w)
  else if g = 0xA then .ldI (fieldNNN w)
  else if g = 0xB then .jpV0 (fieldNNN w)
  else if g = 0xC then .rnd (fieldX w) (fieldNN w)
  else if g = 0xD then .drw (fieldX w) (fieldY w) (fieldN w)
  else if g = 0xE then decodeGroupE w
  else decodeGroupF w

/-- The two bytes of a word as they lie in memory, joined big-endian: `(high << 8) | low` (rules R54, R70). -/
def wordOfBytes (high low : Byte) : Word := high ++ low

/-- The byte of a word that lies at the lower address (rule R54). -/
def highByte (w : Word) : Byte := w.extractLsb' 8 8

/-- The byte of a word that lies at the higher address (rule R54). -/
def lowByte (w : Word) : Byte := w.extractLsb' 0 8

/-- Read one instruction from the front of a sequence of bytes. Every instruction is two bytes (rules R70, R82). -/
def decodeBytes : List Byte → Except DecodeError (Instr × List Byte)
  | high :: low :: rest => .ok (decode (wordOfBytes high low), rest)
  | _ => .error .truncated

/-! ### The encoder, from the formats of rule R72 and the rows of rule R75 -/

/-- Format `A`. -/
def formatA (g : Nibble) (nnn : Imm12) : Word := g ++ nnn

/-- Formats `XB` and `XS`: the low byte is the immediate `NN` or the selector. -/
def formatXB (g : Nibble) (x : RegIdx) (nn : Byte) : Word := g ++ x ++ nn

/-- Formats `XY` and `XYN`: the low nibble is the selector, the immediate `N`, or 0 where it is ignored. -/
def formatXYN (g : Nibble) (x y : RegIdx) (n : Nibble) : Word := g ++ x ++ y ++ n

/-- The word of an instruction: the canonical spelling, ignored bits zero (rule R76). -/
def encode : Instr → Word
  | .cls => formatXB 0x0 0 0xE0
  | .ret => formatXB 0x0 0 0xEE
  | .jp nnn => formatA 0x1 nnn
  | .call nnn => formatA 0x2 nnn
  | .seByte x nn => formatXB 0x3 x nn
  | .sneByte x nn => formatXB 0x4 x nn
  | .seReg x y => formatXYN 0x5 x y 0
  | .ldByte x nn => formatXB 0x6 x nn
  | .addByte x nn => formatXB 0x7 x nn
  | .ldReg x y => formatXYN 0x8 x y 0x0
  | .orReg x y => formatXYN 0x8 x y 0x1
  | .andReg x y => formatXYN 0x8 x y 0x2
  | .xorReg x y => formatXYN 0x8 x y 0x3
  | .addReg x y => formatXYN 0x8 x y 0x4
  | .subReg x y => formatXYN 0x8 x y 0x5
  | .shrReg x y => formatXYN 0x8 x y 0x6
  | .subnReg x y => formatXYN 0x8 x y 0x7
  | .shlReg x y => formatXYN 0x8 x y 0xE
  | .sneReg x y => formatXYN 0x9 x y 0
  | .ldI nnn => formatA 0xA nnn
  | .jpV0 nnn => formatA 0xB nnn
  | .rnd x nn => formatXB 0xC x nn
  | .drw x y n => formatXYN 0xD x y n
  | .skp x => formatXB 0xE x 0x9E
  | .sknp x => formatXB 0xE x 0xA1
  | .ldVxDT x => formatXB 0xF x 0x07
  | .ldVxK x => formatXB 0xF x 0x0A
  | .ldDTVx x => formatXB 0xF x 0x15
  | .ldSTVx x => formatXB 0xF x 0x18
  | .addI x => formatXB 0xF x 0x1E
  | .ldF x => formatXB 0xF x 0x29
  | .ldB x => formatXB 0xF x 0x33
  | .storeRegs x => formatXB 0xF x 0x55
  | .loadRegs x => formatXB 0xF x 0x65
  | .unknown w => w

/-- The two bytes of an instruction as they lie in memory, the high byte first (rule R54). -/
def encodeBytes (i : Instr) : List Byte := [highByte (encode i), lowByte (encode i)]

/-! ### The opcode map as data (rule R75) -/

/-- One row of the opcode map: a word `w` selects it when `w &&& mask = code` (`code` is the map's "match"). -/
structure OpcodeRow where
  number : Nat
  code : Word
  mask : Word
  deriving DecidableEq, Repr

/-- Rows 1 to 18 of rule R75. -/
def opcodeRowsLow : List OpcodeRow :=
  [⟨1, 0x00E0, 0xF0FF⟩, ⟨2, 0x00EE, 0xF0FF⟩, ⟨3, 0x1000, 0xF000⟩, ⟨4, 0x2000, 0xF000⟩, ⟨5, 0x3000, 0xF000⟩,
   ⟨6, 0x4000, 0xF000⟩, ⟨7, 0x5000, 0xF000⟩, ⟨8, 0x6000, 0xF000⟩, ⟨9, 0x7000, 0xF000⟩, ⟨10, 0x8000, 0xF00F⟩,
   ⟨11, 0x8001, 0xF00F⟩, ⟨12, 0x8002, 0xF00F⟩, ⟨13, 0x8003, 0xF00F⟩, ⟨14, 0x8004, 0xF00F⟩, ⟨15, 0x8005, 0xF00F⟩,
   ⟨16, 0x8006, 0xF00F⟩, ⟨17, 0x8007, 0xF00F⟩, ⟨18, 0x800E, 0xF00F⟩]

/-- Rows 19 to 34 of rule R75. -/
def opcodeRowsHigh : List OpcodeRow :=
  [⟨19, 0x9000, 0xF000⟩, ⟨20, 0xA000, 0xF000⟩, ⟨21, 0xB000, 0xF000⟩, ⟨22, 0xC000, 0xF000⟩, ⟨23, 0xD000, 0xF000⟩,
   ⟨24, 0xE09E, 0xF0FF⟩, ⟨25, 0xE0A1, 0xF0FF⟩, ⟨26, 0xF007, 0xF0FF⟩, ⟨27, 0xF00A, 0xF0FF⟩, ⟨28, 0xF015, 0xF0FF⟩,
   ⟨29, 0xF018, 0xF0FF⟩, ⟨30, 0xF01E, 0xF0FF⟩, ⟨31, 0xF029, 0xF0FF⟩, ⟨32, 0xF033, 0xF0FF⟩, ⟨33, 0xF055, 0xF0FF⟩,
   ⟨34, 0xF065, 0xF0FF⟩]

/-- The 34 defined rows of rule R75, in its order. -/
def opcodeRows : List OpcodeRow := opcodeRowsLow ++ opcodeRowsHigh

/-- The row of rule R75 an instruction belongs to. -/
def Instr.rowNumber : Instr → Nat
  | .cls => 1
  | .ret => 2
  | .jp _ => 3
  | .call _ => 4
  | .seByte _ _ => 5
  | .sneByte _ _ => 6
  | .seReg _ _ => 7
  | .ldByte _ _ => 8
  | .addByte _ _ => 9
  | .ldReg _ _ => 10
  | .orReg _ _ => 11
  | .andReg _ _ => 12
  | .xorReg _ _ => 13
  | .addReg _ _ => 14
  | .subReg _ _ => 15
  | .shrReg _ _ => 16
  | .subnReg _ _ => 17
  | .shlReg _ _ => 18
  | .sneReg _ _ => 19
  | .ldI _ => 20
  | .jpV0 _ => 21
  | .rnd _ _ => 22
  | .drw _ _ _ => 23
  | .skp _ => 24
  | .sknp _ => 25
  | .ldVxDT _ => 26
  | .ldVxK _ => 27
  | .ldDTVx _ => 28
  | .ldSTVx _ => 29
  | .addI _ => 30
  | .ldF _ => 31
  | .ldB _ => 32
  | .storeRegs _ => 33
  | .loadRegs _ => 34
  | .unknown _ => 35

/-! ### The host's view of the decoder -/

/-- The instruction the decoder reads from a table word: bit 0 is the least significant bit of the one 16-bit word, laid
out high byte first (rule R54). No instruction is longer than 16 bits (rule R82). -/
def decodeTableWord (nbits w : Nat) : Option Instr :=
  if nbits ≤ 16 then
    let word : Word := BitVec.ofNat 16 (w % 2 ^ nbits)
    match decodeBytes [highByte word, lowByte word] with
    | .ok (i, _) => some i
    | .error _ => none
  else none

end Sys2Proof
end

