-- ==== Sys2Proof/Config.lean ====
section
/-! DEFINITION. What is fixed for one machine: the fixed parameters of rule R7, the open parameters of rule R8
(`SHIFT_SRC`, `FONT`) and the host's random bytes (rule R121). An open parameter is a constant WITHOUT A BODY: nothing
can be proved of its value, so a theorem holds for every choice, and a claim that needs one says so as a hypothesis
(log entries 1, 2, 3). -/

namespace Sys2Proof

/-- The values of the open parameter `SHIFT_SRC` (rule R8): the register the two shifts read. -/
inductive ShiftSrc where
  /-- the shifts read `V[X]` -/
  | vx
  /-- the shifts read `V[Y]` -/
  | vy
  deriving DecidableEq, Repr, Inhabited

namespace Config

/-- `MEM_SIZE` (rule R7): 4096 bytes, addresses 0x000 to 0xFFF. -/
abbrev memSize : Nat := 0x1000

/-- `PROGRAM_BASE` (rule R7). -/
abbrev programBase : Nat := 0x200

/-- `MAX_PROGRAM` (rule R7): 3584 bytes. -/
abbrev maxProgram : Nat := 0x1000 - 0x200

/-- `FONT_BASE` (rule R7). -/
abbrev fontBase : Nat := 0x000

/-- `GLYPH_BYTES` (rule R7). -/
abbrev glyphBytes : Nat := 5

/-- `STACK_DEPTH` (rule R7). -/
abbrev stackDepth : Nat := 16

/-- `SHIFT_SRC` (rule R8, decision D5): open; one value for `SHR` and `SHL` together. Log entry 2. -/
opaque shiftSrc : ShiftSrc

/-- `FONT` (rules R8, R53, decision D15): the 80 bytes at 0x000 to 0x04F after reset; open. Log entry 3. -/
opaque font : Vector Byte 80

/-- The byte the host's random source gives at draw number `n` (rules R32, R121, decision D26): any byte, under no law.
Log entry 1. -/
opaque randomByte : Nat → Byte

/-- The customary font that rule R53 supplies as the default value of `FONT`, glyph by glyph, 0 to 7. -/
def defaultFontLow : List Byte :=
  [0xF0, 0x90, 0x90, 0x90, 0xF0] ++ [0x20, 0x60, 0x20, 0x20, 0x70] ++
  [0xF0, 0x10, 0xF0, 0x80, 0xF0] ++ [0xF0, 0x10, 0xF0, 0x10, 0xF0] ++
  [0x90, 0x90, 0xF0, 0x10, 0x10] ++ [0xF0, 0x80, 0xF0, 0x10, 0xF0] ++
  [0xF0, 0x80, 0xF0, 0x90, 0xF0] ++ [0xF0, 0x10, 0x20, 0x40, 0x40]

/-- The customary font of rule R53, glyphs 8 to F. -/
def defaultFontHigh : List Byte :=
  [0xF0, 0x90, 0xF0, 0x90, 0xF0] ++ [0xF0, 0x90, 0xF0, 0x10, 0xF0] ++
  [0xF0, 0x90, 0xF0, 0x90, 0x90] ++ [0xE0, 0x90, 0xE0, 0x90, 0xE0] ++
  [0xF0, 0x80, 0x80, 0x80, 0xF0] ++ [0xE0, 0x90, 0x90, 0x90, 0xE0] ++
  [0xF0, 0x80, 0xF0, 0x80, 0xF0] ++ [0xF0, 0x80, 0xF0, 0x80, 0x80]

/-- The default value rule R53 supplies for `FONT`. The machine never reads it: a claim about the customary font takes
`Config.HasDefaultFont` as a hypothesis. -/
def defaultFont : List Byte := defaultFontLow ++ defaultFontHigh

/-- The machine is configured with the default font of rule R53. -/
def HasDefaultFont : Prop := font.toList = defaultFont

end Config

end Sys2Proof
end

