-- ==== Sys2Proof/Machine/State.lean ====
section
/-! DEFINITION. The state of the machine as plain data: every piece of state of `10_state.md` (rules R20 to R31, R33) and
two fields of the model's own for the host's random byte (log entry 1); the reasons to stop; the state after reset. -/

namespace Sys2Proof.Machine

/-- The values of the latch `FAULT` (rules R30, R171). -/
inductive FaultCode where
  /-- code 0: no fatal condition since `Reset` -/
  | none
  /-- code 1: `CALL NNN` with `SP = 16` (rule R173) -/
  | stackOverflow
  /-- code 2: `RET` with `SP = 0` (rule R174) -/
  | stackUnderflow
  /-- code 3: a fetch or a data access above 0xFFF (rule R175) -/
  | addressRange
  /-- code 4: a key skip with `V[X] > 0xF` (rule R176) -/
  | keyIndexRange
  /-- code 5: `LD F, Vx` with `V[X] > 0xF` (rule R177) -/
  | fontIndexRange
  /-- code 6: `Load` of more than 3584 bytes (rule R178) -/
  | programTooLarge
  deriving DecidableEq, Repr

/-- The key-wait marker `WAIT` (rule R28). -/
inductive Wait where
  /-- the initial value: no key wait -/
  | running
  /-- a key wait whose key index goes to register `r` -/
  | awaitingKey (r : RegIdx)
  deriving DecidableEq, Repr

/-- The reasons for which a step stops the machine without a next state. THERE ARE NONE: "A `Step` is always possible"
(rule R195). A fatal condition is a NEXT state, the one rule R172 describes (the latch `FAULT` is set, nothing else
changes), and the steps refused after it answer the state they were given. Nobody raises a constructor of this type, so
it is safe (log entry 7). -/
inductive Fault where
  deriving DecidableEq, Repr

/-- The reasons for which the model gives no meaning to a move. -/
inductive Refusal where
  /-- Raised by `exec` for an instruction that has no meaning yet (no arm does so). Safe: the machine stops. -/
  | notModelled (mnemonic : String)
  /-- Raised by the host move `Load` when it does not follow a `Reset` with no `Load` and no `Step` between them: the spec
  gives such a load "no meaning" (rule R192, decision D21). Never raised by `step`. Safe: the move is not offered. -/
  | loadOutsideLaunch
  deriving DecidableEq, Repr

/-- `V[0]` to `V[15]` (rule R20). -/
abbrev Regs := Vector Byte 16

/-- `FB`: 32 rows of 64 one-bit cells (rule R26). -/
abbrev Screen := Vector (Vector Bool 64) 32

/-- `MEM` as the cells that differ from what an unlisted address reads as (`Memory.unlisted`), addresses strictly rising
(`Memory.wf`): equal memories are equal data (rule R31). -/
abbrev Memory := List Host.Cell

/-- All the state of the machine (rule R33: "There is no other register file and no hidden state"). -/
structure State where
  /-- `V[0..15]` (rule R20); `V[0xF]` is VF (rule R21) -/
  v : Regs
  /-- `I` (rule R22) -/
  i : Word
  /-- `PC` (rule R23) -/
  pc : Word
  /-- `SP`, the entries in use, 0 to 16 (rule R24) -/
  sp : Fin 17
  /-- `STK[0..15]` (rule R24) -/
  stk : Vector Word 16
  /-- `DT` (rule R25) -/
  dt : Byte
  /-- `ST` (rule R25) -/
  st : Byte
  /-- `FB[r][c]` (rule R26) -/
  fb : Screen
  /-- `KEY[0..15]` (rule R27) -/
  key : Vector Bool 16
  /-- `WAIT` (rule R28) -/
  wait : Wait
  /-- `REDRAW` (rule R29) -/
  redraw : Bool
  /-- `FAULT` (rule R30) -/
  fault : FaultCode
  /-- `MEM[0..4095]` (rule R31) -/
  mem : Memory
  /-- THE MODEL'S OWN: the byte `rnd` the host passes with this `Step` (rule R80); `none` where no byte is named, and the
  byte drawn is then the free value `Config.randomByte draws`. Log entry 1. -/
  rndIn : Option Byte
  /-- THE MODEL'S OWN: how many random bytes have been drawn (rule R121). Log entry 1. -/
  draws : Nat
  deriving DecidableEq, Repr

/-- The machine right after `Reset` (rule R190): no cell of memory differs from its reset content. The source gives `PC`,
`SP`, the timers, `WAIT` and the memory; the zeros of `V`, `I`, `STK`, `FB`, `KEY`, `REDRAW` and `FAULT = NONE` are the
spec's decisions D14 and D8 (log entries 4, 5); `rndIn` and `draws` are the model's own (log entry 1). -/
def State.reset : State where
  v := Vector.replicate 16 0
  i := 0
  pc := 0x200
  sp := 0
  stk := Vector.replicate 16 0
  dt := 0
  st := 0
  fb := Vector.replicate 32 (Vector.replicate 64 false)
  key := Vector.replicate 16 false
  wait := .running
  redraw := false
  fault := .none
  mem := []
  rndIn := none
  draws := 0

end Sys2Proof.Machine
end

