-- ==== Sys2Proof/Machine/Ops.lean ====
section
/-! DEFINITION. The named operations over the state: one update per field, the registers, the program counter, memory and
its range check, taking a fatal fault, the stack, the screen's cells, the key latches and the timers. The instructions are
written over these only. -/

namespace Sys2Proof.Machine

/-- What an instruction or a step answers. -/
abbrev Result := Host.Outcome State Fault Refusal

/-! ### One update per field -/

/-- `V[x] <- b` (rule R20). No register is hard-wired. -/
def State.setV (s : State) (x : RegIdx) (b : Byte) : State :=
  { s with v := s.v.set x.toNat b (show x.toNat < 16 from x.isLt) }

/-- The whole register file. -/
def State.setRegs (s : State) (v : Regs) : State := { s with v := v }

/-- `I <- w` (rule R22). -/
def State.setI (s : State) (w : Word) : State := { s with i := w }

/-- `PC <- w` (rule R23). -/
def State.setPc (s : State) (w : Word) : State := { s with pc := w }

/-- `SP <- n` (rule R24). -/
def State.setSp (s : State) (n : Fin 17) : State := { s with sp := n }

/-- The sixteen stack entries (rule R24). -/
def State.setStk (s : State) (stk : Vector Word 16) : State := { s with stk := stk }

/-- `DT <- b` (rule R25). -/
def State.setDt (s : State) (b : Byte) : State := { s with dt := b }

/-- `ST <- b` (rule R25). -/
def State.setSt (s : State) (b : Byte) : State := { s with st := b }

/-- The framebuffer (rule R26). -/
def State.setFb (s : State) (fb : Screen) : State := { s with fb := fb }

/-- The key latches (rule R27). -/
def State.setKey (s : State) (key : Vector Bool 16) : State := { s with key := key }

/-- `WAIT <- w` (rule R28). -/
def State.setWait (s : State) (w : Wait) : State := { s with wait := w }

/-- `REDRAW <- b` (rule R29). -/
def State.setRedraw (s : State) (b : Bool) : State := { s with redraw := b }

/-- `FAULT <- c` (rule R30). -/
def State.setFault (s : State) (c : FaultCode) : State := { s with fault := c }

/-- The memory (rule R31). -/
def State.setMem (s : State) (m : Memory) : State := { s with mem := m }

/-- The byte the host passes with a step (rule R80). -/
def State.setRndIn (s : State) (b : Option Byte) : State := { s with rndIn := b }

/-- The number of random bytes drawn (rule R121). -/
def State.setDraws (s : State) (n : Nat) : State := { s with draws := n }

/-! ### Registers and the program counter -/

/-- `V[x]` (rule R20). -/
def State.getV (s : State) (x : RegIdx) : Byte := s.v[x.toNat]'(show x.toNat < 16 from x.isLt)

/-- The index of VF, the flag register (rule R21). -/
def flagReg : RegIdx := 0xF

/-- `PC <- (PC + 2) mod 2^16`: the sequential instructions (rules R13, R23). -/
def State.advance (s : State) : State := s.setPc (s.pc + 2)

/-- The skips: `PC + 4` if the condition holds, else `PC + 2`, modulo 2^16 (rules R23, R103). -/
def State.skipIf (s : State) (c : Bool) : State := if c then s.setPc (s.pc + 4) else s.setPc (s.pc + 2)

/-! ### Memory -/

/-- What an address that no cell lists reads as: the content after `Reset` (rules R52, R190), `FONT` at 0x000 to 0x04F
and zero above. -/
def Memory.unlisted (a : Nat) : Byte := if h : a < 80 then Config.font[a] else 0

/-- One byte of memory (rule R55, the access itself). -/
def Memory.read : Memory → Nat → Byte
  | [], a => Memory.unlisted a
  | (b, w) :: m, a => if a = b then w else Memory.read m a

/-- The cell `(a, v)` before the cells `m`, listed only if it differs from what an unlisted `a` reads as. -/
def Memory.list (a : Nat) (v : Byte) (m : Memory) : Memory := if v = Memory.unlisted a then m else (a, v) :: m

/-- `MEM[a] <- v` (rule R55, the access itself), keeping the canonical form. -/
def Memory.write : Memory → Nat → Byte → Memory
  | [], a, v => Memory.list a v []
  | (b, w) :: m, a, v =>
    if a < b then Memory.list a v ((b, w) :: m)
    else if a = b then Memory.list a v m
    else (b, w) :: Memory.write m a v

/-- The canonical form of the cells from address `low` up: addresses strictly rising and below 4096, no cell equal to what
its address reads as when unlisted. -/
def Memory.wfFrom : Nat → Memory → Bool
  | _, [] => true
  | low, (a, v) :: m => low ≤ a && a < Config.memSize && v != Memory.unlisted a && Memory.wfFrom (a + 1) m

/-- The canonical form of a memory. -/
def Memory.wf (m : Memory) : Bool := Memory.wfFrom 0 m

/-- The bytes `bs` written at `base`, `base + 1`, ..., in ascending order (rules R57, R59). -/
def Memory.writeBlock (m : Memory) (base : Nat) : List Byte → Memory
  | [] => m
  | b :: bs => Memory.writeBlock (Memory.write m base b) (base + 1) bs

/-- The registers with `V[k] <- MEM[base + k]` for `k` from 0 to `count - 1`, in ascending order (rule R135). -/
def Memory.loadBlock (m : Memory) (base : Nat) (v : Regs) : Nat → Regs
  | 0 => v
  | k + 1 => (Memory.loadBlock m base v k).setIfInBounds k (m.read (base + k))

/-- All of the `count` addresses from `base` up exist: the last one is at most 0xFFF (rules R55, R60). Addresses are
integers, reduced modulo nothing. -/
def inRange (base count : Nat) : Bool := count = 0 || base + count ≤ Config.memSize

/-! ### Taking a fatal fault -/

/-- `raise F` (rules R12, R172): the next state is the state as it was when the step began, but for `FAULT <- F`. There is no
handler, no vector and no saved register (rule R183), and no return from it (rule R184): the later steps change nothing
(`cycle`), and only `Reset` clears the latch. Every meaning tests its fault condition before its first write, so `s`
is the state at the beginning of the step; that the timers do not tick is said in `cycle`. -/
def raise (c : FaultCode) (s : State) : Result := .next (s.setFault c)

/-- An instruction that reaches the `count` addresses from `base` up: `t` if all of them exist, otherwise
`ADDRESS_RANGE`, with nothing read or written (rules R60, R136). -/
def accessing (base count : Nat) (s t : State) : Result :=
  if inRange base count then .next t else raise .addressRange s

/-! ### Fetch -/

/-- `Fetch()` (rule R70): the two bytes at `PC` and `PC + 1`, the first one the high byte; `none` when `PC > 0xFFE`. It reads
memory anew at every step (rule R64) and does not move `PC`. -/
def State.fetch (s : State) : Option Word :=
  if inRange s.pc.toNat 2 then
    some (wordOfBytes (s.mem.read s.pc.toNat) (s.mem.read (s.pc.toNat + 1)))
  else none

/-! ### Stack -/

/-- `STK[SP] <- w; SP <- SP + 1`, or `none` when `SP = 16` (rule R102). -/
def State.push (s : State) (w : Word) : Option State :=
  if h : s.sp.val < 16 then
    some ((s.setStk (s.stk.set s.sp.val w h)).setSp ⟨s.sp.val + 1, by omega⟩)
  else none

/-- `SP <- SP - 1`, with the entry that was on top, or `none` when `SP = 0`; the entry stays in place (rule R100, decision
D31). -/
def State.pop (s : State) : Option (Word × State) :=
  if h : s.sp.val = 0 then none
  else some (s.stk[s.sp.val - 1]'(by omega), s.setSp ⟨s.sp.val - 1, by omega⟩)

/-! ### Screen (rules R26, R141) -/

/-- The framebuffer with every cell 0 (rule R140). -/
def Screen.blank : Screen := Vector.replicate 32 (Vector.replicate 64 false)

/-- `FB[r][c]`. -/
def Screen.pixel (f : Screen) (r : Fin 32) (c : Fin 64) : Bool := f[r][c]

/-- `FB[r][c] <- FB[r][c] ^ 1`. -/
def Screen.flip (f : Screen) (r : Fin 32) (c : Fin 64) : Screen := f.set r (f[r].set c (!f[r][c]))

/-- The screen and the collision flag `hit` while a sprite is drawn. -/
abbrev Canvas := Screen × Bool

/-- One 1 bit of the sprite lands on cell `(r, c)`: a set cell is a hit; the cell is flipped (rule R141, inner body). -/
def Canvas.plot (p : Canvas) (r : Fin 32) (c : Fin 64) : Canvas := (p.1.flip r c, p.2 || p.1.pixel r c)

/-- The column of sprite column `c` for a sprite at `x0`: `(x0 + c) mod 64` (rule R141). -/
def spriteCol (x0 : Byte) (c : Nat) : Fin 64 := Fin.ofNat 64 (x0.toNat + c)

/-- The row of sprite row `r` for a sprite at `y0`: `(y0 + r) mod 32` (rule R141). -/
def spriteRow (y0 : Byte) (r : Nat) : Fin 32 := Fin.ofNat 32 (y0.toNat + r)

/-- The first `count` columns of one sprite row `b`, drawn on screen row `row` from column `x0` on; bit 7 is column 0
(rule R141, the loop over `c`; log entry 14). -/
def Canvas.plotRow (x0 : Byte) (row : Fin 32) (b : Byte) : Nat → Canvas → Canvas
  | 0, p => p
  | c + 1, p =>
    let q := Canvas.plotRow x0 row b c p
    if b.getLsbD (7 - c) then q.plot row (spriteCol x0 c) else q

/-- The first `count` rows of the sprite at address `base`, drawn at `(x0, y0)` (rule R141, the loop over `r`). -/
def Canvas.plotSprite (m : Memory) (base : Nat) (x0 y0 : Byte) : Nat → Canvas → Canvas
  | 0, p => p
  | r + 1, p =>
    Canvas.plotRow x0 (spriteRow y0 r) (m.read (base + r)) 8 (Canvas.plotSprite m base x0 y0 r p)

/-! ### Keys -/

/-- The latch `KEY[k]` that a register value selects, or `none` when the value is above 0xF (rule R150). -/
def State.keyLatch (s : State) (k : Byte) : Option Bool := s.key[k.toNat]?

/-! ### Random byte -/

/-- The byte this step draws: the one the host passed, or any byte (rules R32, R121; log entry 1). -/
def State.rndByte (s : State) : Byte := s.rndIn.getD (Config.randomByte s.draws)

/-- One byte has been drawn (rule R121). -/
def State.drawn (s : State) : State := (s.setRndIn none).setDraws (s.draws + 1)

/-! ### Timers -/

/-- One timer's tick: a timer at 0 stays 0 (rule R158). -/
def tickByte (b : Byte) : Byte := if b = 0 then 0 else b - 1

/-- `TimerTick()` (rule R158). -/
def State.timerTick (s : State) : State := (s.setDt (tickByte s.dt)).setSt (tickByte s.st)

/-! ### Placing a program's bytes -/

/-- The bytes of a word at `PC` and `PC + 1`, high byte first (rule R54), in a machine that will fetch them: no fault is
latched, no key wait holds it and `PC` can be fetched from (0x200 where it cannot). It stands for a `Load` from outside
the machine (log entry 20). -/
def State.placeWord (s : State) (w : Word) : State :=
  let pc : Word := if inRange s.pc.toNat 2 then s.pc else 0x200
  let m := (s.mem.write pc.toNat (highByte w)).write (pc.toNat + 1) (lowByte w)
  (((s.setPc pc).setMem m).setFault .none).setWait .running

end Sys2Proof.Machine
end

