-- ==== Sys2Proof/Machine/Operands.lean ====
section
/-! DEFINITION. The operand forms of the instructions (rules R71, R72, R81, R136): registers, immediates, the register the
shifts read, and the effective addresses. Every operand is read before the first write (rule R123). -/

namespace Sys2Proof.Machine

/-- `NNN` zero-extended to 16 bits, as it is written to `PC` or `I` (rule R81). -/
def immAddress (nnn : Imm12) : Word := nnn.setWidth 16

/-- A register zero-extended to 16 bits, as it is added to a 16-bit quantity (rule R81). -/
def State.getVWide (s : State) (x : RegIdx) : Word := (s.getV x).setWidth 16

/-- The register a shift reads under a given `SHIFT_SRC` (rules R118, R120). -/
def State.shiftOperandOf (s : State) (src : ShiftSrc) (x y : RegIdx) : Byte :=
  match src with
  | .vx => s.getV x
  | .vy => s.getV y

/-- The register both shifts read (rule R8: one value of `SHIFT_SRC` for both). -/
def State.shiftOperand (s : State) (x y : RegIdx) : Byte := s.shiftOperandOf Config.shiftSrc x y

/-- The base of every data access: `I` as an integer, 0 to 0xFFFF (rules R60, R136). -/
def State.base (s : State) : Nat := s.i.toNat

/-- `X` as a count of registers, `V[0]` to `V[X]` inclusive (rules R134, R135). -/
def blockCount (x : RegIdx) : Nat := x.toNat + 1

/-- The values of `V[0]` to `V[X]` (rule R134). -/
def State.blockBytes (s : State) (x : RegIdx) : List Byte := s.v.toList.take (blockCount x)

/-- The hundreds, tens and units digits of a byte (rule R133). -/
def bcdDigits (b : Byte) : List Byte :=
  [BitVec.ofNat 8 (b.toNat / 100), BitVec.ofNat 8 (b.toNat / 10 % 10), BitVec.ofNat 8 (b.toNat % 10)]

/-- The address of the glyph of digit `d`: `FONT_BASE + GLYPH_BYTES * d` (rule R132). -/
def glyphAddress (d : Byte) : Word := BitVec.ofNat 16 (Config.fontBase + Config.glyphBytes * d.toNat)

end Sys2Proof.Machine
end

