-- ==== Sys2Proof/Machine/Flags.lean ====
section
/-! DEFINITION. The 8-bit results and the VF flags of the arithmetic instructions (rules R116 to R120, R122), and the one
operation that writes a result and its flag (rule R123). Results are computed as exact integers and then narrowed. -/

namespace Sys2Proof.Machine

/-- A flag as the byte that VF gets: always 0 or 1 (rule R21). -/
def flagByte (c : Bool) : Byte := if c then 1 else 0

/-- `(a + b) mod 256` (rules R111, R116, R122). -/
def addBytes (a b : Byte) : Byte := BitVec.ofNat 8 (a.toNat + b.toNat)

/-- The carry out: `a + b > 255` (rule R116). -/
def carry (a b : Byte) : Bool := a.toNat + b.toNat > 255

/-- `(a - b) mod 256`, which is `256 + a - b` when `a < b` (rules R117, R122). -/
def subBytes (a b : Byte) : Byte := BitVec.ofNat 8 (256 + a.toNat - b.toNat)

/-- Not-borrow of `a - b`: `a >= b` (rule R117). -/
def notBorrow (a b : Byte) : Bool := a.toNat ≥ b.toNat

/-- `s div 2` (rule R118). -/
def halve (a : Byte) : Byte := BitVec.ofNat 8 (a.toNat / 2)

/-- The bit a right shift shifts out, `s[0]` (rule R118). -/
def shiftedOutRight (a : Byte) : Bool := a.getLsbD 0

/-- `(s * 2) mod 256` (rule R120). -/
def double (a : Byte) : Byte := BitVec.ofNat 8 (a.toNat * 2)

/-- The bit a left shift shifts out, `s[7]` (rule R120). -/
def shiftedOutLeft (a : Byte) : Bool := a.getLsbD 7

/-- The result to `V[X]` first and the flag to VF last, so that with `X = 0xF` the flag stays (rule R123, decision D10; log
entry 11). -/
def State.setResultAndFlag (s : State) (x : RegIdx) (result : Byte) (flag : Bool) : State :=
  (s.setV x result).setV flagReg (flagByte flag)

end Sys2Proof.Machine
end

