-- ==== Sys2Proof/Machine/Alu.lean ====
section
/-! DEFINITION. The register load, arithmetic, logic, shift and random instructions (`41_alu.md`). None of them faults and
none touches memory. -/

namespace Sys2Proof.Machine

/-- `LD Vx, NN` (rule R110). -/
def execLdByte (x : RegIdx) (nn : Byte) (s : State) : Result := .next (s.setV x nn).advance

/-- `ADD Vx, NN` (rule R111): no flag register touched. -/
def execAddByte (x : RegIdx) (nn : Byte) (s : State) : Result :=
  .next (s.setV x (addBytes (s.getV x) nn)).advance

/-- `LD Vx, Vy` (rule R112). -/
def execLdReg (x y : RegIdx) (s : State) : Result := .next (s.setV x (s.getV y)).advance

/-- `OR Vx, Vy` (rule R113): VF is not cleared (rule R124). -/
def execOrReg (x y : RegIdx) (s : State) : Result := .next (s.setV x (s.getV x ||| s.getV y)).advance

/-- `AND Vx, Vy` (rule R114): VF is not cleared (rule R124). -/
def execAndReg (x y : RegIdx) (s : State) : Result := .next (s.setV x (s.getV x &&& s.getV y)).advance

/-- `XOR Vx, Vy` (rule R115): VF is not cleared (rule R124). -/
def execXorReg (x y : RegIdx) (s : State) : Result := .next (s.setV x (s.getV x ^^^ s.getV y)).advance

/-- `ADD Vx, Vy` (rule R116). -/
def execAddReg (x y : RegIdx) (s : State) : Result :=
  let a := s.getV x
  let b := s.getV y
  .next (s.setResultAndFlag x (addBytes a b) (carry a b)).advance

/-- `SUB Vx, Vy` (rule R117): `V[X] - V[Y]`. -/
def execSubReg (x y : RegIdx) (s : State) : Result :=
  let a := s.getV x
  let b := s.getV y
  .next (s.setResultAndFlag x (subBytes a b) (notBorrow a b)).advance

/-- `SUBN Vx, Vy` (rule R119): `V[Y] - V[X]`. -/
def execSubnReg (x y : RegIdx) (s : State) : Result :=
  let a := s.getV x
  let b := s.getV y
  .next (s.setResultAndFlag x (subBytes b a) (notBorrow b a)).advance

/-- `SHR Vx, Vy` (rule R118): the destination is always `V[X]`. -/
def execShrReg (x y : RegIdx) (s : State) : Result :=
  let a := s.shiftOperand x y
  .next (s.setResultAndFlag x (halve a) (shiftedOutRight a)).advance

/-- `SHL Vx, Vy` (rule R120): the destination is always `V[X]`. -/
def execShlReg (x y : RegIdx) (s : State) : Result :=
  let a := s.shiftOperand x y
  .next (s.setResultAndFlag x (double a) (shiftedOutLeft a)).advance

/-- `RND Vx, NN` (rule R121): one byte is drawn. -/
def execRnd (x : RegIdx) (nn : Byte) (s : State) : Result :=
  .next (s.setV x (s.rndByte &&& nn)).drawn.advance

end Sys2Proof.Machine
end

