-- ==== Sys2Proof/Machine/ControlFlow.lean ====
section
/-! DEFINITION. The control-flow instructions (`40_control_flow.md`) and the unknown instruction (rule R78). -/

namespace Sys2Proof.Machine

/-- `RET` (rule R100): the popped entry is the address of the call, so `+ 2` steps past it. -/
def execRet (s : State) : Result :=
  match s.pop with
  | none => raise .stackUnderflow s
  | some (top, t) => .next (t.setPc (top + 2))

/-- `JP NNN` (rule R101): no increment. -/
def execJp (nnn : Imm12) (s : State) : Result := .next (s.setPc (immAddress nnn))

/-- `CALL NNN` (rule R102): the entry pushed is the address of this instruction. -/
def execCall (nnn : Imm12) (s : State) : Result :=
  match s.push s.pc with
  | none => raise .stackOverflow s
  | some t => .next (t.setPc (immAddress nnn))

/-- `SE Vx, NN` (rule R103). -/
def execSeByte (x : RegIdx) (nn : Byte) (s : State) : Result := .next (s.skipIf (s.getV x == nn))

/-- `SNE Vx, NN` (rule R104). -/
def execSneByte (x : RegIdx) (nn : Byte) (s : State) : Result := .next (s.skipIf (s.getV x != nn))

/-- `SE Vx, Vy` (rule R105). -/
def execSeReg (x y : RegIdx) (s : State) : Result := .next (s.skipIf (s.getV x == s.getV y))

/-- `SNE Vx, Vy` (rule R106). -/
def execSneReg (x y : RegIdx) (s : State) : Result := .next (s.skipIf (s.getV x != s.getV y))

/-- `JP V0, NNN` (rule R107): a 16-bit sum, not reduced to 12 bits (decision D29). -/
def execJpV0 (nnn : Imm12) (s : State) : Result := .next (s.setPc (immAddress nnn + s.getVWide 0))

/-- `UNKNOWN` (rule R78): a no-op that advances; the diagnostic is the step's answer (`stepAnswer`), not state. -/
def execUnknown (_word : Word) (s : State) : Result := .next s.advance

end Sys2Proof.Machine
end

