-- ==== Sys2Proof/Machine/Display.lean ====
section
/-! DEFINITION. The display instructions (`43_display.md`). -/

namespace Sys2Proof.Machine

/-- `CLS` (rule R140): `REDRAW` is set even if nothing changed. -/
def execCls (s : State) : Result := .next ((s.setFb Screen.blank).setRedraw true).advance

/-- `DRW Vx, Vy, N` (rule R141): both coordinates are read before VF is written; no byte is read when `N = 0`. -/
def execDrw (x y : RegIdx) (n : Nibble) (s : State) : Result :=
  let p := Canvas.plotSprite s.mem s.base (s.getV x) (s.getV y) n.toNat (s.fb, false)
  accessing s.base n.toNat s (((s.setFb p.1).setV flagReg (flagByte p.2)).setRedraw true).advance

end Sys2Proof.Machine
end

