-- ==== Sys2Proof/Machine/IndexMemory.lean ====
section
/-! DEFINITION. The address-register and memory load-store instructions (`42_index_memory.md`). `I` is never changed by an
instruction that uses it as a base (rules R22, R136). -/

namespace Sys2Proof.Machine

/-- `LD I, NNN` (rule R130). -/
def execLdI (nnn : Imm12) (s : State) : Result := .next (s.setI (immAddress nnn)).advance

/-- `ADD I, Vx` (rule R131): modulo 2^16, no flag, no fault. -/
def execAddI (x : RegIdx) (s : State) : Result := .next (s.setI (s.i + s.getVWide x)).advance

/-- `LD F, Vx` (rule R132): it reads no memory. -/
def execLdF (x : RegIdx) (s : State) : Result :=
  if (s.getV x).toNat > 0xF then raise .fontIndexRange s
  else .next (s.setI (glyphAddress (s.getV x))).advance

/-- `LD B, Vx` (rule R133): three digit bytes at `I`, or nothing when one of them has no address. -/
def execLdB (x : RegIdx) (s : State) : Result :=
  accessing s.base 3 s (s.setMem (s.mem.writeBlock s.base (bcdDigits (s.getV x)))).advance

/-- `LD [I], Vx` (rule R134): `V[0]` to `V[X]` to memory, or nothing when one byte has no address. -/
def execStoreRegs (x : RegIdx) (s : State) : Result :=
  accessing s.base (blockCount x) s (s.setMem (s.mem.writeBlock s.base (s.blockBytes x))).advance

/-- `LD Vx, [I]` (rule R135): `V[0]` to `V[X]` from memory, or nothing when one byte has no address. -/
def execLoadRegs (x : RegIdx) (s : State) : Result :=
  accessing s.base (blockCount x) s (s.setRegs (s.mem.loadBlock s.base s.v (blockCount x))).advance

end Sys2Proof.Machine
end

