-- ==== Sys2Proof/Machine/KeysTimers.lean ====
section
/-! DEFINITION. The key, key-wait and timer instructions (`44_keys_timers.md`). The tick that follows each of them belongs to
the step cycle (rule R159). -/

namespace Sys2Proof.Machine

/-- `SKP Vx` (rule R150): the level of the latch is tested, not an edge. -/
def execSkp (x : RegIdx) (s : State) : Result :=
  match s.keyLatch (s.getV x) with
  | none => raise .keyIndexRange s
  | some pressed => .next (s.skipIf pressed)

/-- `SKNP Vx` (rule R151). -/
def execSknp (x : RegIdx) (s : State) : Result :=
  match s.keyLatch (s.getV x) with
  | none => raise .keyIndexRange s
  | some pressed => .next (s.skipIf (!pressed))

/-- `LD Vx, DT` (rule R152). -/
def execLdVxDT (x : RegIdx) (s : State) : Result := .next (s.setV x s.dt).advance

/-- `LD Vx, K` (rule R153): it enters the key wait; `PC` and `V[X]` do not change. -/
def execLdVxK (x : RegIdx) (s : State) : Result := .next (s.setWait (.awaitingKey x))

/-- `LD DT, Vx` (rule R154). -/
def execLdDTVx (x : RegIdx) (s : State) : Result := .next (s.setDt (s.getV x)).advance

/-- `LD ST, Vx` (rule R155). -/
def execLdSTVx (x : RegIdx) (s : State) : Result := .next (s.setSt (s.getV x)).advance

end Sys2Proof.Machine
end

