-- ==== Sys2Proof/Machine/Cycle.lean ====
section
/-! DEFINITION. The step cycle (rule R80): fetch, decode, execute, tick, and the tests before them. -/

namespace Sys2Proof.Machine

/-- What follows the executor: `TimerTick()`, unless the instruction raised a fault (rules R158, R172). -/
def State.settle (t : State) : State := if t.fault = .none then t.timerTick else t

/-- One fetched instruction: the executor, then the tick (rule R159). -/
def runInstr (i : Instr) (s : State) : Result :=
  match exec i s with
  | .next t => .next t.settle
  | .fault r => .fault r
  | .refused r => .refused r

/-- `Step` (rule R80), in the order of tests of rule R182: a latched fault refuses the step, which changes nothing; a key wait
holds it, and only the timers run (log entry 23); a fetch above 0xFFE faults; otherwise the decoded instruction runs. -/
def cycle (s : State) : Result :=
  if s.fault = .none then
    match s.wait with
    | .awaitingKey _ => .next s.timerTick
    | .running =>
      match s.fetch with
      | none => raise .addressRange s
      | some w => runInstr (decode w) s
  else .next s

end Sys2Proof.Machine
end

