-- ==== Sys2Proof/Machine/Step.lean ====
section
/-! DEFINITION. One step of the machine, and the machine with an instruction where the next step fetches it. -/

namespace Sys2Proof.Machine

/-- One `Step` (rule R80). The random byte is the one the host passed (`rndIn`), or any byte (log entry 1). -/
def step (s : State) : Host.Outcome State Fault Refusal := cycle s

/-- `s` with the instruction of a table word where the next step fetches it (log entry 20). -/
def State.withFetchWord (s : State) (nbits w : Nat) : State := s.placeWord (BitVec.ofNat 16 (w % 2 ^ nbits))

end Sys2Proof.Machine
end

