-- ==== Sys2Proof/Machine/HostInterface.lean ====
section
/-! DEFINITION. The core's boundary (rule R6): the four host transitions beside `Step`, the answers, the five
outputs, and the order in which the host may invoke them. Each transition is one function, so none of them overlaps
another (rules R57, R196). -/

namespace Sys2Proof.Machine

/-- The code of a fault (rule R171). -/
def FaultCode.code : FaultCode → BitVec 3
  | .none => 0
  | .stackOverflow => 1
  | .stackUnderflow => 2
  | .addressRange => 3
  | .keyIndexRange => 4
  | .fontIndexRange => 5
  | .programTooLarge => 6

/-- The result value of `Load`, `KeyEvent` or `Step` (rule R6). -/
inductive Answer where
  /-- `OK` of `Load`, `KeyEvent` and `Step`; also the FILLER in a schedule's answer slot for `Reset` and `AckRedraw`, which have
  no result value (rule R6): DESIGN CHOICE, log entry 32 -/
  | ok
  /-- the diagnostic of a step on an unknown word: its address and the word (rules R78, R179) -/
  | unknown (pc instr : Word)
  /-- a fatal condition (rule R172) -/
  | fault (c : FaultCode)
  /-- a key index outside 0 to 15 (rule R180) -/
  | rejected
  deriving DecidableEq, Repr

/-! ### Reset, Load, KeyEvent, AckRedraw -/

/-- `Reset` (rule R190), in any state. The host's random source is no state of the core (rule R32), so its draws go on. -/
def State.doReset (s : State) : State := State.reset.setDraws s.draws

/-- `Load(bytes)` (rule R192): the bytes verbatim from 0x200 on; more than 3584 of them are a fatal fault and none is
copied. -/
def State.load (s : State) (bytes : List Byte) : State × Answer :=
  if bytes.length > Config.maxProgram then (s.setFault .programTooLarge, .fault .programTooLarge)
  else (s.setMem (s.mem.writeBlock Config.programBase bytes), .ok)

/-- The launch state `Launch(P)` (rule R194). -/
def launch (bytes : List Byte) : State := (State.reset.load bytes).1

/-- A press edge resolves the key wait: the key index to the waiting register, `PC + 2`, `Running` (rule R156). -/
def State.resolveWait (s : State) (k : Byte) : State :=
  match s.wait with
  | .running => s
  | .awaitingKey r => ((s.setV r k).advance).setWait .running

/-- `KeyEvent(k, pressed)` (rule R156): an index outside 0 to 15 is rejected; otherwise the latch is written, and a 0-to-1
edge resolves a key wait at once. -/
def State.keyEvent (s : State) (k : Int) (pressed : Bool) : State × Answer :=
  if h : 0 ≤ k ∧ k < 16 then
    let idx : Fin 16 := ⟨k.toNat, by omega⟩
    let old := s.key[idx]
    let t := s.setKey (s.key.set idx pressed)
    (if pressed && !old then t.resolveWait (BitVec.ofNat 8 idx.val) else t, .ok)
  else (s, .rejected)

/-- `AckRedraw` (rule R143), in any state. -/
def State.ackRedraw (s : State) : State := s.setRedraw false

/-! ### The answer of a step -/

/-- The result value of the step from `s` to `t` (rules R80, R179): the fault that is latched afterwards, the diagnostic of an
unknown word, or `OK`. -/
def stepAnswer (s t : State) : Answer :=
  if t.fault = .none then
    match s.wait, s.fetch with
    | .running, some w =>
      match decode w with
      | .unknown word => .unknown s.pc word
      | _ => .ok
    | _, _ => .ok
  else .fault t.fault

/-- `Step(rnd)` with the byte the host passes (rule R80): `rnd` is an argument of this one step, not state (rule R32). -/
def stepWith (rnd : Byte) (s : State) : Host.Outcome (State × Answer) Fault Refusal :=
  match step (s.setRndIn (some rnd)) with
  | .next t => .next (t.setRndIn none, stepAnswer s t)
  | .fault r => .fault r
  | .refused r => .refused r

/-! ### Outputs (rule R6) -/

/-- `fb`, read-only (rule R144): the row-major sequence, element `64 * r + c` is `FB[r][c]`. -/
def State.outFb (s : State) : List Bool := (s.fb.toList.map Vector.toList).flatten

/-- `redraw` (rule R143). -/
def State.outRedraw (s : State) : Bool := s.redraw

/-- `waiting = (WAIT != Running)` (rule R157). -/
def State.outWaiting (s : State) : Bool := s.wait != .running

/-- `sound_active = (ST != 0)` (rule R160). -/
def State.outSoundActive (s : State) : Bool := s.st != 0

/-- `fault` (rules R30, R172). -/
def State.outFault (s : State) : BitVec 3 := s.fault.code

/-! ### The host's schedule -/

/-- The five transitions as moves of the host (rule R6). -/
inductive HostMove where
  | reset
  | load (bytes : List Byte)
  | keyEvent (k : Int) (pressed : Bool)
  | step (rnd : Byte)
  | ackRedraw
  deriving DecidableEq, Repr

/-- The core and whether a `Load` may be invoked: once after each `Reset` and before the first `Step` (rule R192). The
bit is the host's protocol, no state of the core. -/
structure Session where
  core : State
  loadable : Bool
  deriving DecidableEq, Repr

/-- The machine as it is created (rules R190, R193). -/
def Session.start : Session := ⟨State.reset, true⟩

/-- One move of the host. A `Load` at any time but the one of rule R192 is refused (decision D21; log entry 16). Rule R6 gives
`Reset` and `AckRedraw` no result value: the `ok` in their answer slot is a filler of the model, no result of the core
(DESIGN CHOICE, log entry 32). -/
def Session.move (m : HostMove) (x : Session) : Host.Outcome (Session × Answer) Fault Refusal :=
  match m with
  | .reset => .next (⟨x.core.doReset, true⟩, .ok)
  | .load bytes =>
    if x.loadable then .next (⟨(x.core.load bytes).1, false⟩, (x.core.load bytes).2)
    else .refused .loadOutsideLaunch
  | .keyEvent k pressed => .next (⟨(x.core.keyEvent k pressed).1, x.loadable⟩, (x.core.keyEvent k pressed).2)
  | .step rnd =>
    match stepWith rnd x.core with
    | .next (t, a) => .next (⟨t, false⟩, a)
    | .fault r => .fault r
    | .refused r => .refused r
  | .ackRedraw => .next (⟨x.core.ackRedraw, x.loadable⟩, .ok)

/-- A schedule of host moves, with the answers in order, one per move (for `Reset` and `AckRedraw` the filler of log entry 32); it
stops at the first move that is refused. -/
def Session.run : List HostMove → Session → Host.Outcome (Session × List Answer) Fault Refusal
  | [], x => .next (x, [])
  | m :: ms, x =>
    match x.move m with
    | .next (y, a) =>
      match y.run ms with
      | .next (z, as) => .next (z, a :: as)
      | .fault r => .fault r
      | .refused r => .refused r
    | .fault r => .fault r
    | .refused r => .refused r

end Sys2Proof.Machine
end

