-- ==== Sys2Proof/Safety.lean ====
section
/-! DEFINITION. The terms claims use: what a step leaves alone, part by part; the invariant of reachable states (rule R35); the
ends of a run (rule R195); the sprite as a picture (rule R141). -/

namespace Sys2Proof.Machine

/-! ### Frames -/

/-- The parts of the state (`10_state.md`, the summary table), and the model's own pair for the random byte. -/
inductive Part where
  | regs
  | index
  | pc
  | stack
  | delay
  | sound
  | screen
  | keys
  | wait
  | redraw
  | fault
  | memory
  | random
  deriving DecidableEq, Repr

/-- A part is the same in two states; memory is compared byte by byte, through the read of one byte. -/
def Part.same (s t : State) : Part → Prop
  | .regs => ∀ r, t.getV r = s.getV r
  | .index => t.i = s.i
  | .pc => t.pc = s.pc
  | .stack => t.sp = s.sp ∧ t.stk = s.stk
  | .delay => t.dt = s.dt
  | .sound => t.st = s.st
  | .screen => ∀ r c, t.fb.pixel r c = s.fb.pixel r c
  | .keys => t.key = s.key
  | .wait => t.wait = s.wait
  | .redraw => t.redraw = s.redraw
  | .fault => t.fault = s.fault
  | .memory => ∀ a, t.mem.read a = s.mem.read a
  | .random => t.rndIn = s.rndIn ∧ t.draws = s.draws

/-- Every part outside `ps` is the same in `t` as in `s`. -/
def OnlyChanges (ps : List Part) (s t : State) : Prop := ∀ p, p ∉ ps → p.same s t

end Sys2Proof.Machine

namespace Sys2Proof

open Machine

/-- The parts an instruction may change, from the "written by" column of the summary table of `10_state.md`; a faulting
instruction changes `FAULT` only. -/
def Instr.mayChange : Instr → List Part
  | .cls => [.screen, .redraw, .pc]
  | .ret => [.stack, .pc, .fault]
  | .jp _ => [.pc]
  | .call _ => [.stack, .pc, .fault]
  | .seByte _ _ => [.pc]
  | .sneByte _ _ => [.pc]
  | .seReg _ _ => [.pc]
  | .ldByte _ _ => [.regs, .pc]
  | .addByte _ _ => [.regs, .pc]
  | .ldReg _ _ => [.regs, .pc]
  | .orReg _ _ => [.regs, .pc]
  | .andReg _ _ => [.regs, .pc]
  | .xorReg _ _ => [.regs, .pc]
  | .addReg _ _ => [.regs, .pc]
  | .subReg _ _ => [.regs, .pc]
  | .shrReg _ _ => [.regs, .pc]
  | .subnReg _ _ => [.regs, .pc]
  | .shlReg _ _ => [.regs, .pc]
  | .sneReg _ _ => [.pc]
  | .ldI _ => [.index, .pc]
  | .jpV0 _ => [.pc]
  | .rnd _ _ => [.regs, .pc, .random]
  | .drw _ _ _ => [.screen, .redraw, .regs, .pc, .fault]
  | .skp _ => [.pc, .fault]
  | .sknp _ => [.pc, .fault]
  | .ldVxDT _ => [.regs, .pc]
  | .ldVxK _ => [.wait]
  | .ldDTVx _ => [.delay, .pc]
  | .ldSTVx _ => [.sound, .pc]
  | .addI _ => [.index, .pc]
  | .ldF _ => [.index, .pc, .fault]
  | .ldB _ => [.memory, .pc, .fault]
  | .storeRegs _ => [.memory, .pc, .fault]
  | .loadRegs _ => [.regs, .pc, .fault]
  | .unknown _ => [.pc]

/-- The registers an instruction may change (rules R21, R124, R135): its destination `V[X]`, VF for the six
flag-writing instructions, and `V[0]` to `V[X]` for the block load. -/
def Instr.mayWriteReg (r : RegIdx) : Instr → Bool
  | .ldByte x _ => r == x
  | .addByte x _ => r == x
  | .ldReg x _ => r == x
  | .orReg x _ => r == x
  | .andReg x _ => r == x
  | .xorReg x _ => r == x
  | .addReg x _ => r == x || r == flagReg
  | .subReg x _ => r == x || r == flagReg
  | .shrReg x _ => r == x || r == flagReg
  | .subnReg x _ => r == x || r == flagReg
  | .shlReg x _ => r == x || r == flagReg
  | .rnd x _ => r == x
  | .drw _ _ _ => r == flagReg
  | .ldVxDT x => r == x
  | .loadRegs x => r.toNat ≤ x.toNat
  | .cls => false
  | .ret => false
  | .jp _ => false
  | .call _ => false
  | .seByte _ _ => false
  | .sneByte _ _ => false
  | .seReg _ _ => false
  | .sneReg _ _ => false
  | .ldI _ => false
  | .jpV0 _ => false
  | .skp _ => false
  | .sknp _ => false
  | .ldVxK _ => false
  | .ldDTVx _ => false
  | .ldSTVx _ => false
  | .addI _ => false
  | .ldF _ => false
  | .ldB _ => false
  | .storeRegs _ => false
  | .unknown _ => false

/-- How many bytes of memory an instruction stores from `I` up (rule R59): three for the BCD store, `X + 1` for the block
store, none for every other instruction. -/
def Instr.storeCount : Instr → Nat
  | .ldB _ => 3
  | .storeRegs x => x.toNat + 1
  | _ => 0

/-- The fault an instruction raises, if any, in the words of rule R171's table and rule R175's. -/
def Instr.faultIn (s : State) : Instr → FaultCode
  | .call _ => if s.sp.val = 16 then .stackOverflow else .none
  | .ret => if s.sp.val = 0 then .stackUnderflow else .none
  | .drw _ _ n => if n.toNat > 0 ∧ s.i.toNat + n.toNat - 1 > 0xFFF then .addressRange else .none
  | .ldB _ => if s.i.toNat + 2 > 0xFFF then .addressRange else .none
  | .storeRegs x => if s.i.toNat + x.toNat > 0xFFF then .addressRange else .none
  | .loadRegs x => if s.i.toNat + x.toNat > 0xFFF then .addressRange else .none
  | .skp x => if (s.getV x).toNat > 0xF then .keyIndexRange else .none
  | .sknp x => if (s.getV x).toNat > 0xF then .keyIndexRange else .none
  | .ldF x => if (s.getV x).toNat > 0xF then .fontIndexRange else .none
  | _ => .none

end Sys2Proof

namespace Sys2Proof.Machine

/-! ### The sprite as a picture -/

/-- Cell `(r, c)` lies under a 1 bit of the `n`-row sprite at address `base` drawn at column `x0`, row `y0` (rule R141):
rows wrap modulo 32, columns modulo 64, bit 7 is the leftmost. -/
def SpriteCovers (m : Memory) (base n : Nat) (x0 y0 : Byte) (r : Fin 32) (c : Fin 64) : Prop :=
  ∃ dr dc, dr < n ∧ dc < 8 ∧ (y0.toNat + dr) % 32 = r.val ∧ (x0.toNat + dc) % 64 = c.val ∧
    (m.read (base + dr)).getLsbD (7 - dc) = true

/-! ### Invariants -/

/-- Rule R35 (c): in a key wait no fault is latched, `PC` can be fetched from, and the word there is the key-wait
instruction of the waiting register. -/
def State.waitOk (s : State) : Prop :=
  ∀ r, s.wait = .awaitingKey r →
    s.fault = .none ∧ s.pc.toNat ≤ 0xFFE ∧ ∃ w, s.fetch = some w ∧ decode w = .ldVxK r

/-- Rule R35 (d): a latched fault and a key wait exclude each other. -/
def State.faultOk (s : State) : Prop := s.fault ≠ .none → s.wait = .running

/-- Rule R35 (e): every stack entry in use is an address that was fetched from. -/
def State.stackOk (s : State) : Prop := ∀ j : Fin 16, j.val < s.sp.val → (s.stk[j]).toNat ≤ 0xFFE

/-- Rule R23: "`PC <= 0x10FE` in every reachable state". -/
def State.pcOk (s : State) : Prop := s.pc.toNat ≤ 0x10FE

/-- The invariant of reachable states: rule R35 (c), (d), (e), the bound of rule R23, and memory in canonical form. Rule R35
(a) and (b) are the types of the fields. -/
structure State.Inv (s : State) : Prop where
  waitOk : s.waitOk
  faultOk : s.faultOk
  stackOk : s.stackOk
  pcOk : s.pcOk
  memOk : s.mem.wf = true

/-- The invariant of a session: the core's, and a core that may be loaded is not in a key wait (rule R192). -/
structure Session.Inv (x : Session) : Prop where
  core : x.core.Inv
  loadableOk : x.loadable = true → x.core.wait = .running

/-! ### Ends of a run (rule R195) -/

/-- *idle*: the word at `PC` jumps to itself. -/
def State.idle (s : State) : Prop :=
  s.fault = .none ∧ s.wait = .running ∧ ∃ w nnn, s.fetch = some w ∧ decode w = .jp nnn ∧ immAddress nnn = s.pc

/-- *faulted*. -/
def State.faulted (s : State) : Prop := s.fault ≠ .none

/-- *waiting*, for ever unless the host delivers a key edge. -/
def State.waiting (s : State) : Prop := s.wait ≠ .running

/-- A safe run of a core: no step of it latches a fault. -/
def SafeRun (k : Nat) (s : State) : Prop :=
  ∀ j, j ≤ k → ∀ t, Host.Core.run Sys2Proof.core j s = .next t → t.fault = .none

end Sys2Proof.Machine
end

