-- ==== Sys2Proof/Certificates/Slice0/Obligations.lean ====
section
/-! DEFINITION. The statements for the provers: encodings, the step cycle, every instruction's result, completion and frame,
the whole-machine rules, the host transitions and the invariants. -/

open Sys2Proof Sys2Proof.Machine

/-! ### Encoding -/

/-- Decoding the word of a well-formed instruction gives it back, with every operand at every value (rules R71, R72, R75;
the opcode numbers are decision D2, log entry 9). -/
def Obligations.DecodeEncodeRoundTrip : Prop := ∀ i : Instr, i.wf = true → decode (encode i) = i

/-- Rule R75: the decoder, which classifies by group and selector, picks the one row whose mask and match the word
satisfies; a word of no row is unknown (decisions D2, D4; log entries 9, 10). -/
def Obligations.DecodeSelectsMatchingRow : Prop :=
  ∀ w : Word,
    (∀ row ∈ opcodeRows, w &&& row.mask = row.code ↔ (decode w).rowNumber = row.number) ∧
    ((∀ row ∈ opcodeRows, w &&& row.mask ≠ row.code) → decode w = .unknown w)

/-- Rule R77's table: the unknown words are exactly those of its four rows, and an unknown word carries itself
(decisions D2 to D4; log entries 9, 10). -/
def Obligations.UnknownWordsAreTheListedOnes : Prop :=
  ∀ w : Word, (decode w = .unknown w ↔ unknownWord w = true) ∧ ∀ v, decode w = .unknown v → v = w

/-- Rule R76: encoding what was decoded gives the word back but for the bits the decoder ignores: bits 11:8 of `CLS` and
`RET`, bits 3:0 of the two register skips (decision D4, log entry 10). -/
def Obligations.EncodeOfDecodeDropsIgnoredBitsOnly : Prop :=
  ∀ w : Word, encode (decode w) =
    if (decode w).rowNumber = 1 ∨ (decode w).rowNumber = 2 then w &&& 0xF0FF
    else if (decode w).rowNumber = 7 ∨ (decode w).rowNumber = 19 then w &&& 0xFFF0
    else w

/-- A few words of the opcode map, each with its fields written out. The opcode numbers are the spec's own, from general
knowledge (decisions D2, D3; log entry 9); `0x0FEE` and `0x5127` are non-canonical words, whose ignored bits are decision
D4 (log entry 10). -/
def Obligations.SampleWordsDecode : Prop :=
  decode 0x00E0 = .cls ∧ decode 0x0FEE = .ret ∧ decode 0x2ABC = .call 0xABC ∧ decode 0x332A = .seByte 3 0x2A ∧
  decode 0x5127 = .seReg 1 2 ∧ decode 0x812E = .shlReg 1 2 ∧ decode 0xC30F = .rnd 3 0x0F ∧
  decode 0xD125 = .drw 1 2 5 ∧ decode 0xEAA1 = .sknp 0xA ∧ decode 0xF233 = .ldB 2 ∧ decode 0x800D = .unknown 0x800D

/-! ### Fetch and the step cycle -/

/-- Rule R70 and rule R54: the fetch joins the bytes at `PC` and `PC + 1`, high byte first, whatever the parity of `PC`; above
0xFFE it fails and the step raises `ADDRESS_RANGE`, changing nothing else (decisions D6, D8, D24; log entries 7, 8, 19). -/
def Obligations.FetchIsBigEndianAndFaultsAboveFFE : Prop :=
  ∀ s : State,
    (s.pc.toNat ≤ 0xFFE → ∃ w, s.fetch = some w ∧
      w.toNat = 256 * (s.mem.read s.pc.toNat).toNat + (s.mem.read (s.pc.toNat + 1)).toNat) ∧
    (0xFFE < s.pc.toNat → s.fault = .none → s.wait = .running →
      ∃ t, step s = .next t ∧ t.fault = .addressRange ∧ OnlyChanges [.fault] s t)

/-- Rule R80: with no fault latched and no key wait, a step is `exec` of the instruction that the two bytes at `PC` decode
to, at that very state, followed by the timer tick unless the instruction raised a fault. -/
def Obligations.StepRunsDecodedInstruction : Prop :=
  ∀ s : State, s.fault = .none → s.wait = .running → s.pc.toNat ≤ 0xFFE →
    step s =
      match exec (decode (s.mem.read s.pc.toNat ++ s.mem.read (s.pc.toNat + 1))) s with
      | .next u => .next (if u.fault = .none then u.timerTick else u)
      | .fault r => .fault r
      | .refused r => .refused r

/-- Rule R157, row "AwaitingKey(R), Step": any number of steps in a key wait runs the timers down and changes
nothing else (decision D27, log entry 23). -/
def Obligations.KeyWaitHoldsAndTimersRun : Prop :=
  ∀ (k : Nat) (s : State) (r : RegIdx), s.fault = .none → s.wait = .awaitingKey r →
    ∃ t, Host.Core.run Sys2Proof.core k s = .next t ∧ t.dt.toNat = s.dt.toNat - k ∧ t.st.toNat = s.st.toNat - k ∧
      OnlyChanges [.delay, .sound] s t

/-- Rule R195: "A `Step` is always possible": every step, from every state, answers a next state. -/
def Obligations.EveryStepAnswersNextState : Prop := ∀ s : State, ∃ t, step s = .next t

/-- Rules R172 and R178 (decisions D8, D21; log entries 7, 16). A step that raises a fault changes the latch and nothing else,
and reports it. From EVERY state whose latch is set, by a step or by a failed `Load`, steps change nothing and report the
latched fault, key events and redraw acknowledgements leave the latch, and `Reset` clears it. So no step executes after a
`Load` that was too large. -/
def Obligations.RaisedFaultChangesOnlyTheLatchAndSticks : Prop :=
  (∀ s t : State, s.fault = .none → step s = .next t → t.fault ≠ .none →
    t = s.setFault t.fault ∧ stepAnswer s t = .fault t.fault) ∧
  (∀ t : State, t.fault ≠ .none →
    step t = .next t ∧ stepAnswer t t = .fault t.fault ∧
    (∀ k pressed, (t.keyEvent k pressed).1.fault = t.fault) ∧ t.ackRedraw.fault = t.fault ∧ t.doReset.fault = .none) ∧
  (∀ (s : State) (bytes : List Byte), 3584 < bytes.length →
    step (s.load bytes).1 = .next (s.load bytes).1 ∧
    stepAnswer (s.load bytes).1 (s.load bytes).1 = .fault .programTooLarge)

/-- Rules R158 and R159: in a step that raises no fault each timer is lowered by one, and not below 0, from the value the
executor left: what `LD DT, Vx` or `LD ST, Vx` wrote, otherwise what it was before (decision D8, log entry 18). -/
def Obligations.TimersTickOncePerStep : Prop :=
  ∀ s t : State, s.fault = .none → step s = .next t → t.fault = .none →
    ((∀ x w, s.wait = .running → s.fetch = some w → decode w = .ldDTVx x → t.dt.toNat = (s.getV x).toNat - 1) ∧
     (∀ x w, s.wait = .running → s.fetch = some w → decode w = .ldSTVx x → t.st.toNat = (s.getV x).toNat - 1)) ∧
    ((s.wait = .running → ∀ x w, s.fetch = some w → decode w ≠ .ldDTVx x) → t.dt.toNat = s.dt.toNat - 1) ∧
    ((s.wait = .running → ∀ x w, s.fetch = some w → decode w ≠ .ldSTVx x) → t.st.toNat = s.st.toNat - 1)

/-- Rule R78 (decision D25, log entry 24): the unknown instruction only advances `PC`; a step on an unknown word ticks the
timers, latches no fault and reports the address and the word. -/
def Obligations.UnknownWordAdvancesAndReports : Prop :=
  (∀ (w : Word) (s : State), ∃ t, exec (.unknown w) s = .next t ∧ t.pc = s.pc + 2 ∧ OnlyChanges [.pc] s t) ∧
  ∀ (w : Word) (s : State), s.fault = .none → s.wait = .running → s.fetch = some w → unknownWord w = true →
    ∃ t, step s = .next t ∧ t.pc = s.pc + 2 ∧ t.dt.toNat = s.dt.toNat - 1 ∧ t.st.toNat = s.st.toNat - 1 ∧
      OnlyChanges [.pc, .delay, .sound] s t ∧ stepAnswer s t = .unknown s.pc w

/-- Rule R195, *idle*: a jump to itself leaves the machine idle, with nothing but the timers changing (decision D30). -/
def Obligations.IdleStepOnlyRunsTimers : Prop :=
  ∀ s : State, s.idle → ∃ t, step s = .next t ∧ t.idle ∧ t.dt.toNat = s.dt.toNat - 1 ∧ t.st.toNat = s.st.toNat - 1 ∧
    OnlyChanges [.delay, .sound] s t

/-- The model's own (log entry 20): a word placed for the next step is what that step decodes and runs. -/
def Obligations.PlacedWordIsTheNextInstruction : Prop :=
  ∀ (s : State) (w : Word), s.mem.wf = true →
    decodeTableWord 16 w.toNat = some (decode w) ∧
    step (s.withFetchWord 16 w.toNat) = runInstr (decode w) (s.withFetchWord 16 w.toNat)

/-! ### Control flow -/

/-- Rule R101: `JP NNN` sets `PC` exactly to `NNN`, odd or not, and changes nothing else. -/
def Obligations.JumpSetsPcExactly : Prop :=
  ∀ (nnn : Imm12) (s : State), ∃ t, exec (.jp nnn) s = .next t ∧ t.pc.toNat = nnn.toNat ∧ OnlyChanges [.pc] s t

/-- Rule R107 (decision D29, log entry 19): `JP V0, NNN` sets `PC` to the sum, not reduced to 12 bits. -/
def Obligations.IndexedJumpAddsV0 : Prop :=
  ∀ (nnn : Imm12) (s : State), ∃ t, exec (.jpV0 nnn) s = .next t ∧ t.pc.toNat = nnn.toNat + (s.getV 0).toNat ∧
    OnlyChanges [.pc] s t

/-- Rule R102: `CALL NNN` pushes its own address and jumps; with sixteen entries in use it raises `STACK_OVERFLOW`
(decision D8, log entry 7). -/
def Obligations.CallPushesItsOwnAddress : Prop :=
  ∀ (nnn : Imm12) (s : State),
    (∀ h : s.sp.val < 16, ∃ t, exec (.call nnn) s = .next t ∧ t.stk[s.sp.val] = s.pc ∧
      (∀ j : Fin 16, j.val ≠ s.sp.val → t.stk[j] = s.stk[j]) ∧ t.sp.val = s.sp.val + 1 ∧ t.pc.toNat = nnn.toNat ∧
      OnlyChanges [.stack, .pc] s t) ∧
    (s.sp.val = 16 → ∃ t, exec (.call nnn) s = .next t ∧ t.fault = .stackOverflow ∧ OnlyChanges [.fault] s t)

/-- Rule R100: `RET` pops the top entry, which stays in place, and continues two bytes after it; with no entry in use it
raises `STACK_UNDERFLOW` (decisions D31, D8; log entries 22, 7). -/
def Obligations.ReturnGoesTwoPastTheCall : Prop :=
  ∀ s : State,
    (∀ h : 0 < s.sp.val, ∃ t, exec .ret s = .next t ∧ t.sp.val = s.sp.val - 1 ∧
      t.pc = s.stk[s.sp.val - 1]'(by omega) + 2 ∧ t.stk = s.stk ∧ OnlyChanges [.stack, .pc] s t) ∧
    (s.sp.val = 0 → ∃ t, exec .ret s = .next t ∧ t.fault = .stackUnderflow ∧ OnlyChanges [.fault] s t)

/-- The property rule R102 quotes: "Call followed immediately by return restores PC to (call-site PC + 2), and leaves the
stack pointer unchanged". -/
def Obligations.CallThenReturnResumesAfterTheCall : Prop :=
  ∀ (nnn : Imm12) (s : State), s.sp.val < 16 →
    ∃ t u, exec (.call nnn) s = .next t ∧ exec .ret t = .next u ∧ u.pc = s.pc + 2 ∧ u.sp = s.sp ∧
      OnlyChanges [.stack, .pc] s u

/-- Rules R103 and R104: the skips on a register and a byte. -/
def Obligations.ByteSkips : Prop :=
  ∀ (x : RegIdx) (nn : Byte) (s : State),
    (∃ t, exec (.seByte x nn) s = .next t ∧ t.pc = (if s.getV x = nn then s.pc + 4 else s.pc + 2) ∧
      OnlyChanges [.pc] s t) ∧
    (∃ t, exec (.sneByte x nn) s = .next t ∧ t.pc = (if s.getV x ≠ nn then s.pc + 4 else s.pc + 2) ∧
      OnlyChanges [.pc] s t)

/-- Rules R105 and R106: the skips on two registers. -/
def Obligations.RegisterSkips : Prop :=
  ∀ (x y : RegIdx) (s : State),
    (∃ t, exec (.seReg x y) s = .next t ∧ t.pc = (if s.getV x = s.getV y then s.pc + 4 else s.pc + 2) ∧
      OnlyChanges [.pc] s t) ∧
    (∃ t, exec (.sneReg x y) s = .next t ∧ t.pc = (if s.getV x ≠ s.getV y then s.pc + 4 else s.pc + 2) ∧
      OnlyChanges [.pc] s t)

/-- Rules R150 and R151 (decisions D13, D18; log entry 13): the skips on a key's level; an index above 0xF raises
`KEY_INDEX_RANGE`. -/
def Obligations.KeySkips : Prop :=
  ∀ (x : RegIdx) (s : State),
    (∀ h : (s.getV x).toNat < 16,
      (∃ t, exec (.skp x) s = .next t ∧
        t.pc = (if s.key[(s.getV x).toNat] = true then s.pc + 4 else s.pc + 2) ∧ OnlyChanges [.pc] s t) ∧
      (∃ t, exec (.sknp x) s = .next t ∧
        t.pc = (if s.key[(s.getV x).toNat] = false then s.pc + 4 else s.pc + 2) ∧ OnlyChanges [.pc] s t)) ∧
    (0xF < (s.getV x).toNat →
      (∃ t, exec (.skp x) s = .next t ∧ t.fault = .keyIndexRange ∧ OnlyChanges [.fault] s t) ∧
      (∃ t, exec (.sknp x) s = .next t ∧ t.fault = .keyIndexRange ∧ OnlyChanges [.fault] s t))

/-! ### Arithmetic, logic, shifts, random -/

/-- Rules R110 and R111: the immediate load, and the immediate add, which wraps and touches no flag. -/
def Obligations.ImmediateLoadAndAdd : Prop :=
  ∀ (x : RegIdx) (nn : Byte) (s : State),
    (∃ t, exec (.ldByte x nn) s = .next t ∧ (∀ r, t.getV r = if r = x then nn else s.getV r) ∧ t.pc = s.pc + 2 ∧
      OnlyChanges [.regs, .pc] s t) ∧
    (∃ t, exec (.addByte x nn) s = .next t ∧ (t.getV x).toNat = ((s.getV x).toNat + nn.toNat) % 256 ∧
      (∀ r, r ≠ x → t.getV r = s.getV r) ∧ t.pc = s.pc + 2 ∧ OnlyChanges [.regs, .pc] s t)

/-- Rules R112 to R115: move, or, and, exclusive or; VF is not touched unless it is the destination. -/
def Obligations.MoveAndLogic : Prop :=
  ∀ (x y : RegIdx) (s : State),
    (∃ t, exec (.ldReg x y) s = .next t ∧ (∀ r, t.getV r = if r = x then s.getV y else s.getV r) ∧ t.pc = s.pc + 2 ∧
      OnlyChanges [.regs, .pc] s t) ∧
    (∃ t, exec (.orReg x y) s = .next t ∧ (∀ r, t.getV r = if r = x then s.getV x ||| s.getV y else s.getV r) ∧
      t.pc = s.pc + 2 ∧ OnlyChanges [.regs, .pc] s t) ∧
    (∃ t, exec (.andReg x y) s = .next t ∧ (∀ r, t.getV r = if r = x then s.getV x &&& s.getV y else s.getV r) ∧
      t.pc = s.pc + 2 ∧ OnlyChanges [.regs, .pc] s t) ∧
    (∃ t, exec (.xorReg x y) s = .next t ∧ (∀ r, t.getV r = if r = x then s.getV x ^^^ s.getV y else s.getV r) ∧
      t.pc = s.pc + 2 ∧ OnlyChanges [.regs, .pc] s t)

/-- Rule R116: the sum modulo 256, and VF the carry, 1 exactly when the sum of the old operands is above 255; with `X = 0xF`,
VF ends as the carry (decision D10, log entry 11). -/
def Obligations.AddWithCarry : Prop :=
  ∀ (x y : RegIdx) (s : State), ∃ t, exec (.addReg x y) s = .next t ∧
    (x ≠ 0xF → (t.getV x).toNat = ((s.getV x).toNat + (s.getV y).toNat) % 256) ∧
    t.getV 0xF = (if (s.getV x).toNat + (s.getV y).toNat > 255 then 1 else 0) ∧
    (∀ r, r ≠ x → r ≠ 0xF → t.getV r = s.getV r) ∧ t.pc = s.pc + 2 ∧ OnlyChanges [.regs, .pc] s t

/-- Rules R117 and R119: the difference modulo 256, and VF the not-borrow of the old operands; with
`X = 0xF`, VF ends as the flag (decision D10, log entry 11). -/
def Obligations.SubtractWithNotBorrow : Prop :=
  ∀ (x y : RegIdx) (s : State),
    (∃ t, exec (.subReg x y) s = .next t ∧ (x ≠ 0xF → t.getV x = s.getV x - s.getV y) ∧
      t.getV 0xF = (if (s.getV x).toNat ≥ (s.getV y).toNat then 1 else 0) ∧
      (∀ r, r ≠ x → r ≠ 0xF → t.getV r = s.getV r) ∧ t.pc = s.pc + 2 ∧ OnlyChanges [.regs, .pc] s t) ∧
    (∃ t, exec (.subnReg x y) s = .next t ∧ (x ≠ 0xF → t.getV x = s.getV y - s.getV x) ∧
      t.getV 0xF = (if (s.getV y).toNat ≥ (s.getV x).toNat then 1 else 0) ∧
      (∀ r, r ≠ x → r ≠ 0xF → t.getV r = s.getV r) ∧ t.pc = s.pc + 2 ∧ OnlyChanges [.regs, .pc] s t)

/-- Rules R118 and R120, for either value of `SHIFT_SRC`, the same one for both: the source halved or doubled modulo 256 into
`V[X]`, and VF the bit shifted out, 0 or 1 (decisions D5, D10; log entries 2, 11). -/
def Obligations.ShiftsByOne : Prop :=
  ∀ (x y : RegIdx) (s : State) (src : Byte), src = (if Config.shiftSrc = .vx then s.getV x else s.getV y) →
    (∃ t, exec (.shrReg x y) s = .next t ∧ (x ≠ 0xF → (t.getV x).toNat = src.toNat / 2) ∧
      t.getV 0xF = (if src.getLsbD 0 = true then 1 else 0) ∧
      (∀ r, r ≠ x → r ≠ 0xF → t.getV r = s.getV r) ∧ t.pc = s.pc + 2 ∧ OnlyChanges [.regs, .pc] s t) ∧
    (∃ t, exec (.shlReg x y) s = .next t ∧ (x ≠ 0xF → (t.getV x).toNat = src.toNat * 2 % 256) ∧
      t.getV 0xF = (if src.getLsbD 7 = true then 1 else 0) ∧
      (∀ r, r ≠ x → r ≠ 0xF → t.getV r = s.getV r) ∧ t.pc = s.pc + 2 ∧ OnlyChanges [.regs, .pc] s t)

/-- Rule R121 (decision D26, log entry 1): `RND` ands one drawn byte with `NN`: the byte the host passed where it passed one,
any byte otherwise; one draw is counted, and no other register changes. -/
def Obligations.RandomByteIsMasked : Prop :=
  ∀ (x : RegIdx) (nn : Byte) (s : State), ∃ t b, exec (.rnd x nn) s = .next t ∧
    (∀ given, s.rndIn = some given → b = given) ∧ (∀ r, t.getV r = if r = x then b &&& nn else s.getV r) ∧
    t.pc = s.pc + 2 ∧ t.rndIn = none ∧ t.draws = s.draws + 1 ∧ OnlyChanges [.regs, .pc, .random] s t

/-- Rule R121 (decision D26, log entry 1): the byte the host passes to a step that does not run `RND` does not matter,
neither to the state nor to the answer. -/
def Obligations.RandomByteMattersToRndOnly : Prop :=
  ∀ (s : State) (b b' : Byte), (∀ w x nn, s.fetch = some w → decode w ≠ .rnd x nn) → stepWith b s = stepWith b' s

/-! ### Address register and memory -/

/-- Rule R130: `LD I, NNN`. -/
def Obligations.LoadIndexRegister : Prop :=
  ∀ (nnn : Imm12) (s : State), ∃ t, exec (.ldI nnn) s = .next t ∧ t.i.toNat = nnn.toNat ∧ t.pc = s.pc + 2 ∧
    OnlyChanges [.index, .pc] s t

/-- Rule R131 (decision D7, log entry 21): `ADD I, Vx` adds modulo 2^16, writes no flag and never faults. -/
def Obligations.AddToIndexRegister : Prop :=
  ∀ (x : RegIdx) (s : State), ∃ t, exec (.addI x) s = .next t ∧
    t.i.toNat = (s.i.toNat + (s.getV x).toNat) % 65536 ∧ t.pc = s.pc + 2 ∧ OnlyChanges [.index, .pc] s t

/-- Rule R132 (decision D12, log entry 12): `LD F, Vx` sets `I` to five times the digit; a value above 0xF raises
`FONT_INDEX_RANGE`. -/
def Obligations.FontAddress : Prop :=
  ∀ (x : RegIdx) (s : State),
    ((s.getV x).toNat ≤ 0xF → ∃ t, exec (.ldF x) s = .next t ∧ t.i.toNat = 5 * (s.getV x).toNat ∧ t.pc = s.pc + 2 ∧
      OnlyChanges [.index, .pc] s t) ∧
    (0xF < (s.getV x).toNat → ∃ t, exec (.ldF x) s = .next t ∧ t.fault = .fontIndexRange ∧ OnlyChanges [.fault] s t)

/-- Rule R133: the three decimal digits of `V[X]` at `I`, `I + 1`, `I + 2`; when one of these has no address, `ADDRESS_RANGE`
and not a byte written (decisions D6, D8; log entries 7, 8). Memory is in canonical form (`StepKeepsInvariant`). -/
def Obligations.BcdStoreWritesThreeDigits : Prop :=
  ∀ (x : RegIdx) (s : State), s.mem.wf = true →
    (s.i.toNat ≤ 0xFFD → ∃ t, exec (.ldB x) s = .next t ∧
      (t.mem.read s.base).toNat = (s.getV x).toNat / 100 ∧
      (t.mem.read (s.base + 1)).toNat = (s.getV x).toNat / 10 % 10 ∧
      (t.mem.read (s.base + 2)).toNat = (s.getV x).toNat % 10 ∧
      (∀ a, a < s.base ∨ s.base + 3 ≤ a → t.mem.read a = s.mem.read a) ∧ t.pc = s.pc + 2 ∧
      OnlyChanges [.memory, .pc] s t) ∧
    (0xFFD < s.i.toNat → ∃ t, exec (.ldB x) s = .next t ∧ t.fault = .addressRange ∧ OnlyChanges [.fault] s t)

/-- Rule R134: `V[0]` to `V[X]` to memory from `I` up, `I` and the registers unchanged; when the last byte has no address,
`ADDRESS_RANGE` and not a byte written (decisions D6, D8; log entries 7, 8). Memory is in canonical form
(`StepKeepsInvariant`). -/
def Obligations.BlockStoreWritesRegisters : Prop :=
  ∀ (x : RegIdx) (s : State), s.mem.wf = true →
    (s.i.toNat + x.toNat ≤ 0xFFF → ∃ t, exec (.storeRegs x) s = .next t ∧
      (∀ r : RegIdx, r.toNat ≤ x.toNat → t.mem.read (s.base + r.toNat) = s.getV r) ∧
      (∀ a, a < s.base ∨ s.base + x.toNat + 1 ≤ a → t.mem.read a = s.mem.read a) ∧ t.pc = s.pc + 2 ∧
      OnlyChanges [.memory, .pc] s t) ∧
    (0xFFF < s.i.toNat + x.toNat →
      ∃ t, exec (.storeRegs x) s = .next t ∧ t.fault = .addressRange ∧ OnlyChanges [.fault] s t)

/-- Rule R135: `V[0]` to `V[X]` from memory from `I` up, the registers above `V[X]`, `I` and memory unchanged; when the last
byte has no address, `ADDRESS_RANGE` and not a register written (decisions D6, D8; log entries 7, 8). -/
def Obligations.BlockLoadReadsRegisters : Prop :=
  ∀ (x : RegIdx) (s : State),
    (s.i.toNat + x.toNat ≤ 0xFFF → ∃ t, exec (.loadRegs x) s = .next t ∧
      (∀ r : RegIdx, t.getV r = if r.toNat ≤ x.toNat then s.mem.read (s.base + r.toNat) else s.getV r) ∧
      t.pc = s.pc + 2 ∧ OnlyChanges [.regs, .pc] s t) ∧
    (0xFFF < s.i.toNat + x.toNat →
      ∃ t, exec (.loadRegs x) s = .next t ∧ t.fault = .addressRange ∧ OnlyChanges [.fault] s t)

/-- Rules R134 and R135 together: a block load from where a block store of as many registers wrote gives those registers
back, whatever the registers held in between. -/
def Obligations.BlockStoreThenLoadRestores : Prop :=
  ∀ (x : RegIdx) (s : State) (w : Regs), s.mem.wf = true → s.i.toNat + x.toNat ≤ 0xFFF →
    ∃ t u, exec (.storeRegs x) s = .next t ∧ exec (.loadRegs x) (t.setRegs w) = .next u ∧
      ∀ r : RegIdx, r.toNat ≤ x.toNat → u.getV r = s.getV r

/-! ### Display -/

/-- Rule R140: every cell 0, `REDRAW` set, VF untouched. -/
def Obligations.ClearScreen : Prop :=
  ∀ s : State, ∃ t, exec .cls s = .next t ∧ (∀ r c, t.fb.pixel r c = false) ∧ t.redraw = true ∧ t.pc = s.pc + 2 ∧
    OnlyChanges [.screen, .redraw, .pc] s t

/-- Rule R141 (decisions D6, D8, D11, D16, D17; log entries 7, 8, 11, 14, 15): the loops of `DRW` flip exactly the cells the sprite covers, both
coordinates wrapping; VF is 1 exactly when a covered cell was set; `REDRAW` is set; a sprite byte without an address
raises `ADDRESS_RANGE` and draws nothing. -/
def Obligations.DrawFlipsTheCoveredCells : Prop :=
  ∀ (x y : RegIdx) (n : Nibble) (s : State),
    (n.toNat = 0 ∨ s.i.toNat + n.toNat - 1 ≤ 0xFFF → ∃ t, exec (.drw x y n) s = .next t ∧
      (∀ r c, t.fb.pixel r c = true ↔
        (s.fb.pixel r c = true ↔ ¬ SpriteCovers s.mem s.base n.toNat (s.getV x) (s.getV y) r c)) ∧
      ((∃ r c, SpriteCovers s.mem s.base n.toNat (s.getV x) (s.getV y) r c ∧ s.fb.pixel r c = true) → t.getV 0xF = 1) ∧
      ((∀ r c, SpriteCovers s.mem s.base n.toNat (s.getV x) (s.getV y) r c → s.fb.pixel r c = false) → t.getV 0xF = 0) ∧
      (∀ r, r ≠ 0xF → t.getV r = s.getV r) ∧ t.redraw = true ∧ t.pc = s.pc + 2 ∧
      OnlyChanges [.screen, .redraw, .regs, .pc] s t) ∧
    (0 < n.toNat ∧ 0xFFF < s.i.toNat + n.toNat - 1 →
      ∃ t, exec (.drw x y n) s = .next t ∧ t.fault = .addressRange ∧ OnlyChanges [.fault] s t)

/-- Rule R142: drawing the same sprite at the same coordinates twice restores the framebuffer; if the sprite has a 1 bit, one
of the two draws reports a collision; if moreover every covered cell was 0 before, the first reports none and the
second one does. -/
def Obligations.DrawTwiceRestoresTheScreen : Prop :=
  ∀ (x y : RegIdx) (n : Nibble) (s : State), n.toNat = 0 ∨ s.i.toNat + n.toNat ≤ 0x1000 →
    ∃ t, exec (.drw x y n) s = .next t ∧
      (t.getV x = s.getV x → t.getV y = s.getV y → ∃ u, exec (.drw x y n) t = .next u ∧
        (∀ r c, u.fb.pixel r c = s.fb.pixel r c) ∧
        ((∃ dr dc, dr < n.toNat ∧ dc < 8 ∧ (s.mem.read (s.base + dr)).getLsbD dc = true) →
          (t.getV 0xF = 1 ∨ u.getV 0xF = 1) ∧
          ((∀ r c, SpriteCovers s.mem s.base n.toNat (s.getV x) (s.getV y) r c → s.fb.pixel r c = false) →
            t.getV 0xF = 0 ∧ u.getV 0xF = 1)))

/-- Rules R26 and R144: the output `fb` is the row-major sequence whose element `64 * r + c` is `FB[r][c]`. -/
def Obligations.OutputFbIsRowMajor : Prop :=
  ∀ (s : State) (r : Fin 32) (c : Fin 64), s.outFb.length = 2048 ∧ s.outFb[64 * r.val + c.val]? = some (s.fb.pixel r c)

/-! ### Timers and keys -/

/-- Rules R152, R154 and R155: what the timer instructions move; the tick belongs to the step (`TimersTickOncePerStep`). -/
def Obligations.TimerReadsAndWrites : Prop :=
  ∀ (x : RegIdx) (s : State),
    (∃ t, exec (.ldVxDT x) s = .next t ∧ (∀ r, t.getV r = if r = x then s.dt else s.getV r) ∧ t.pc = s.pc + 2 ∧
      OnlyChanges [.regs, .pc] s t) ∧
    (∃ t, exec (.ldDTVx x) s = .next t ∧ t.dt = s.getV x ∧ t.pc = s.pc + 2 ∧ OnlyChanges [.delay, .pc] s t) ∧
    (∃ t, exec (.ldSTVx x) s = .next t ∧ t.st = s.getV x ∧ t.pc = s.pc + 2 ∧ OnlyChanges [.sound, .pc] s t)

/-- Rule R153: `LD Vx, K` enters the key wait for its register and moves neither `PC` nor `V[X]`. -/
def Obligations.KeyWaitIsEntered : Prop :=
  ∀ (x : RegIdx) (s : State), ∃ t, exec (.ldVxK x) s = .next t ∧ t.wait = .awaitingKey x ∧ t.pc = s.pc ∧
    OnlyChanges [.wait] s t

/-- Rule R156 (decisions D19, D20; log entry 17): an index outside 0 to 15 is rejected and changes nothing; otherwise the latch
follows the host; a 0-to-1 edge in a key wait puts the key index into the waiting register, advances `PC` by 2 and
ends the wait, and any other event changes the latch only. -/
def Obligations.KeyEventUpdatesLatchAndResolvesWait : Prop :=
  (∀ (s : State) (k : Int) (pressed : Bool), k < 0 ∨ 15 < k → s.keyEvent k pressed = (s, .rejected)) ∧
  ∀ (s : State) (k : Fin 16) (pressed : Bool),
    (s.keyEvent k.val pressed).2 = .ok ∧
    (∀ j : Fin 16, (s.keyEvent k.val pressed).1.key[j] = if j = k then pressed else s.key[j]) ∧
    (∀ r, s.wait = .awaitingKey r → pressed = true → s.key[k] = false →
      (∀ q, (s.keyEvent k.val pressed).1.getV q = if q = r then BitVec.ofNat 8 k.val else s.getV q) ∧
      (s.keyEvent k.val pressed).1.pc = s.pc + 2 ∧ (s.keyEvent k.val pressed).1.wait = .running ∧
      OnlyChanges [.keys, .regs, .pc, .wait] s (s.keyEvent k.val pressed).1) ∧
    (s.wait = .running ∨ pressed = false ∨ s.key[k] = true → OnlyChanges [.keys] s (s.keyEvent k.val pressed).1)

/-! ### Whole-machine rules -/

/-- The "written by" column of the summary table of `10_state.md`: an instruction changes only the parts named for it. -/
def Obligations.InstructionsChangeOnlyTheirParts : Prop :=
  ∀ (i : Instr) (s t : State), exec i s = .next t → OnlyChanges i.mayChange s t

/-- Rules R21 and R124: no instruction changes a register but its destination, VF for the six flag-writing instructions, and
`V[0]` to `V[X]` for the block load. -/
def Obligations.RegistersOutsideDestinationUnchanged : Prop :=
  ∀ (i : Instr) (r : RegIdx) (s t : State), exec i s = .next t → i.mayWriteReg r = false → t.getV r = s.getV r

/-- Rule R21: the six flag-writing instructions leave VF 0 or 1, never another value (decision D10, log entry 11). A `DRW`
that raises a fault leaves VF as it was, hence the hypothesis that none is latched. -/
def Obligations.FlagsAreZeroOrOne : Prop :=
  ∀ (x y : RegIdx) (n : Nibble) (i : Instr) (s t : State),
    i = .addReg x y ∨ i = .subReg x y ∨ i = .shrReg x y ∨ i = .subnReg x y ∨ i = .shlReg x y ∨ i = .drw x y n →
    exec i s = .next t → t.fault = .none → t.getV 0xF = 0 ∨ t.getV 0xF = 1

/-- Rule R59: only the BCD store and the block store write memory, and only the bytes from `I` up that they store. -/
def Obligations.MemoryOutsideTheStoreUnchanged : Prop :=
  ∀ (i : Instr) (s t : State) (a : Nat), exec i s = .next t → a < s.base ∨ s.base + i.storeCount ≤ a →
    t.mem.read a = s.mem.read a

/-- The tables of rules R171 and R175 (decisions D6, D9, D12, D13; log entries 6, 8, 12, 13): each instruction raises its one
fault exactly under its one condition, and the instructions that stand in neither table raise none. -/
def Obligations.FaultsAreExactlyTheListedOnes : Prop :=
  ∀ (i : Instr) (s t : State), s.fault = .none → exec i s = .next t → t.fault = i.faultIn s

/-! ### Host transitions -/

/-- Rule R190, the values the source gives: memory is the font and zeros, `PC = 0x200`, `SP = 0`, the timers 0, `Running`. It
holds of the state after reset and of the transition `Reset` from any state. -/
def Obligations.ResetValuesOfTheSource : Prop :=
  ∀ s : State, ∀ t, t = State.reset ∨ t = s.doReset →
    (∀ (a : Nat) (h : a < 80), t.mem.read a = Config.font[a]) ∧ (∀ a, 80 ≤ a → t.mem.read a = 0) ∧
    t.pc = 0x200 ∧ t.sp = 0 ∧ t.dt = 0 ∧ t.st = 0 ∧ t.wait = .running

/-- The spec's own choices for reset (decisions D14, D8; log entries 4, 5): registers, `I`, stack entries, screen, latches and
`REDRAW` zero, no fault; so the outputs are all zero. -/
def Obligations.ResetValuesOfTheDecisions : Prop :=
  ∀ s : State, ∀ t, t = State.reset ∨ t = s.doReset →
    (∀ r, t.getV r = 0) ∧ t.i = 0 ∧ (∀ j : Fin 16, t.stk[j] = 0) ∧ (∀ r c, t.fb.pixel r c = false) ∧
    (∀ k : Fin 16, t.key[k] = false) ∧ t.redraw = false ∧ t.fault = .none ∧
    t.outFault = 0 ∧ t.outRedraw = false ∧ t.outWaiting = false ∧ t.outSoundActive = false

/-- Rule R192 (decision D21, log entry 16): up to 3584 bytes are copied verbatim from 0x200 on and nothing else changes; more
are `PROGRAM_TOO_LARGE`, and nothing is copied. Memory is in canonical form (`ResetMeetsInvariant`). -/
def Obligations.LoadCopiesTheProgram : Prop :=
  ∀ (s : State) (bytes : List Byte), s.mem.wf = true →
    (bytes.length ≤ 3584 → (s.load bytes).2 = .ok ∧
      (∀ (k : Nat) (h : k < bytes.length), (s.load bytes).1.mem.read (0x200 + k) = bytes[k]) ∧
      (∀ a, a < 0x200 ∨ 0x200 + bytes.length ≤ a → (s.load bytes).1.mem.read a = s.mem.read a) ∧
      OnlyChanges [.memory] s (s.load bytes).1) ∧
    (3584 < bytes.length → (s.load bytes).2 = .fault .programTooLarge ∧ (s.load bytes).1.fault = .programTooLarge ∧
      OnlyChanges [.fault] s (s.load bytes).1)

/-- Rule R194: the launch state of a program that fits, with its first instruction fetched from its first two bytes. -/
def Obligations.LaunchStateHoldsTheProgram : Prop :=
  ∀ bytes : List Byte, bytes.length ≤ 3584 →
    (∀ (a : Nat) (h : a < 80), (launch bytes).mem.read a = Config.font[a]) ∧
    (∀ (k : Nat) (h : k < bytes.length), (launch bytes).mem.read (0x200 + k) = bytes[k]) ∧
    (∀ a, 80 ≤ a → a < 0x200 ∨ 0x200 + bytes.length ≤ a → (launch bytes).mem.read a = 0) ∧
    OnlyChanges [.memory] State.reset (launch bytes) ∧
    (∀ h : 2 ≤ bytes.length, (launch bytes).fetch = some (bytes[0] ++ bytes[1]))

/-- Rule R143 (decision D32, log entry 25): `AckRedraw` clears `REDRAW` and does nothing else. -/
def Obligations.AckRedrawClearsRedraw : Prop := ∀ s : State, s.ackRedraw.redraw = false ∧ OnlyChanges [.redraw] s s.ackRedraw

/-- Rule R192 (decision D21, log entry 16): a `Load` is a move of the host once after each `Reset` and before the first
`Step`; at any other time it is refused by name. -/
def Obligations.LoadIsOfferedOnceAfterReset : Prop :=
  ∀ (x y : Session) (a : Answer) (bytes : List Byte),
    (x.loadable = false → x.move (.load bytes) = .refused .loadOutsideLaunch) ∧
    (x.loadable = true → ∃ z, x.move (.load bytes) = .next z ∧ z.1.loadable = false) ∧
    (x.move .reset = .next (y, a) → y.loadable = true) ∧
    (∀ rnd, x.move (.step rnd) = .next (y, a) → y.loadable = false) ∧
    (∀ k pressed, x.move (.keyEvent k pressed) = .next (y, a) → y.loadable = x.loadable) ∧
    (x.move .ackRedraw = .next (y, a) → y.loadable = x.loadable)

/-! ### Invariants -/

/-- The state after reset meets the invariant (rule R35, rule R23's bound, memory in canonical form), and so does the session
the machine starts with. -/
def Obligations.ResetMeetsInvariant : Prop := State.reset.Inv ∧ Session.start.Inv

/-- Every step keeps the invariant, from every state that has it: rule R35 (c), (d), (e), the bound of rule R23 on `PC`, and the
canonical form of memory. -/
def Obligations.StepKeepsInvariant : Prop := ∀ s t : State, s.Inv → step s = .next t → t.Inv

/-- Each of the five transitions keeps the invariant, from every session that has it (rule R35). -/
def Obligations.HostMovesKeepInvariant : Prop :=
  ∀ (m : HostMove) (x y : Session) (a : Answer), x.Inv → x.move m = .next (y, a) → y.Inv

/-- Rule R35: in every state reachable by the five transitions, under every schedule of the host, the invariant holds. -/
def Obligations.ReachableStatesMeetInvariant : Prop :=
  ∀ (ms : List HostMove) (y : Session) (as : List Answer), Session.start.run ms = .next (y, as) → y.core.Inv
end

