-- ==== Sys2Proof/Laws/Decode.lean ====
section
/-! SUPPORT. The fields of an encoded word are the operands it was encoded from, and a word is made of its fields. -/

namespace Sys2Proof

/-! ### Fields of a format -/

@[simp] theorem fieldG_formatA (g : Nibble) (nnn : Imm12) : fieldG (formatA g nnn) = g := by
  unfold fieldG formatA
  rw [BitVec.extractLsb'_append_eq_of_le (by decide)]; simp

@[simp] theorem fieldNNN_formatA (g : Nibble) (nnn : Imm12) : fieldNNN (formatA g nnn) = nnn := by
  unfold fieldNNN formatA
  rw [BitVec.extractLsb'_append_eq_of_add_le (by decide)]; simp

@[simp] theorem fieldG_formatXB (g : Nibble) (x : RegIdx) (nn : Byte) : fieldG (formatXB g x nn) = g := by
  unfold fieldG formatXB
  rw [BitVec.extractLsb'_append_eq_of_le (by decide), BitVec.extractLsb'_append_eq_of_le (by decide)]; simp

@[simp] theorem fieldX_formatXB (g : Nibble) (x : RegIdx) (nn : Byte) : fieldX (formatXB g x nn) = x := by
  unfold fieldX formatXB
  rw [BitVec.extractLsb'_append_eq_of_le (by decide), BitVec.extractLsb'_append_eq_of_add_le (by decide)]; simp

@[simp] theorem fieldNN_formatXB (g : Nibble) (x : RegIdx) (nn : Byte) : fieldNN (formatXB g x nn) = nn := by
  unfold fieldNN formatXB
  rw [BitVec.extractLsb'_append_eq_of_add_le (by decide)]; simp

@[simp] theorem fieldG_formatXYN (g : Nibble) (x y : RegIdx) (n : Nibble) : fieldG (formatXYN g x y n) = g := by
  unfold fieldG formatXYN
  rw [BitVec.extractLsb'_append_eq_of_le (by decide), BitVec.extractLsb'_append_eq_of_le (by decide),
    BitVec.extractLsb'_append_eq_of_le (by decide)]; simp

@[simp] theorem fieldX_formatXYN (g : Nibble) (x y : RegIdx) (n : Nibble) : fieldX (formatXYN g x y n) = x := by
  unfold fieldX formatXYN
  rw [BitVec.extractLsb'_append_eq_of_le (by decide), BitVec.extractLsb'_append_eq_of_le (by decide),
    BitVec.extractLsb'_append_eq_of_add_le (by decide)]; simp

@[simp] theorem fieldY_formatXYN (g : Nibble) (x y : RegIdx) (n : Nibble) : fieldY (formatXYN g x y n) = y := by
  unfold fieldY formatXYN
  rw [BitVec.extractLsb'_append_eq_of_le (by decide), BitVec.extractLsb'_append_eq_of_add_le (by decide)]; simp

@[simp] theorem fieldN_formatXYN (g : Nibble) (x y : RegIdx) (n : Nibble) : fieldN (formatXYN g x y n) = n := by
  unfold fieldN formatXYN
  rw [BitVec.extractLsb'_append_eq_of_add_le (by decide)]; simp

/-! ### A word from its fields -/

theorem word_eq_formatA (w : Word) : w = formatA (fieldG w) (fieldNNN w) := by
  unfold formatA fieldG fieldNNN
  apply BitVec.eq_of_getLsbD_eq
  intro k hk
  rw [BitVec.getLsbD_append]
  by_cases h : k < 12
  · simp [h]
  · simp [h, show k - 12 < 4 by omega, show 12 + (k - 12) = k by omega]

theorem fieldNNN_eq (w : Word) : fieldNNN w = fieldX w ++ fieldNN w := by
  unfold fieldNNN fieldX fieldNN
  apply BitVec.eq_of_getLsbD_eq
  intro k hk
  rw [BitVec.getLsbD_append]
  by_cases h : k < 8
  · simp [h, hk]
  · simp [h, hk, show k - 8 < 4 by omega, show 8 + (k - 8) = k by omega]

theorem fieldNN_eq (w : Word) : fieldNN w = fieldY w ++ fieldN w := by
  unfold fieldNN fieldY fieldN
  apply BitVec.eq_of_getLsbD_eq
  intro k hk
  rw [BitVec.getLsbD_append]
  by_cases h : k < 4
  · simp [h, hk]
  · simp [h, hk, show k - 4 < 4 by omega, show 4 + (k - 4) = k by omega]

theorem word_eq_formatXB (w : Word) : w = formatXB (fieldG w) (fieldX w) (fieldNN w) := by
  conv => lhs; rw [word_eq_formatA w, formatA, fieldNNN_eq]
  exact (BitVec.append_assoc' ..).trans (by simp [formatXB])

theorem word_eq_formatXYN (w : Word) : w = formatXYN (fieldG w) (fieldX w) (fieldY w) (fieldN w) := by
  conv => lhs; rw [word_eq_formatXB w, formatXB, fieldNN_eq]
  exact (BitVec.append_assoc' ..).trans (by simp [formatXYN])

/-- A word is its two bytes, high byte first (rule R54). -/
@[simp] theorem wordOfBytes_bytes (w : Word) : wordOfBytes (highByte w) (lowByte w) = w := by
  unfold wordOfBytes highByte lowByte
  apply BitVec.eq_of_getLsbD_eq
  intro k hk
  rw [BitVec.getLsbD_append]
  by_cases h : k < 8
  · simp [h]
  · simp [h, show k - 8 < 8 by omega, show 8 + (k - 8) = k by omega]

/-- The decoder on the two bytes of a word. -/
theorem decodeBytes_word (w : Word) (rest : List Byte) :
    decodeBytes (highByte w :: lowByte w :: rest) = .ok (decode w, rest) := by
  simp [decodeBytes]

end Sys2Proof
end

