-- ==== Sys2Proof/Laws/Memory.lean ====
section
/-! SUPPORT. The laws of memory: read after write, every write keeps the canonical form, and canonical memories that read
alike are equal. -/

namespace Sys2Proof.Machine

@[simp] theorem Memory.read_nil (a : Nat) : Memory.read [] a = Memory.unlisted a := rfl

theorem Memory.wfFrom_cons {low a : Nat} {v : Byte} {m : Memory} :
    Memory.wfFrom low ((a, v) :: m) = true ↔
      low ≤ a ∧ a < 0x1000 ∧ v ≠ Memory.unlisted a ∧ Memory.wfFrom (a + 1) m = true := by
  simp only [Memory.wfFrom, Bool.and_eq_true, decide_eq_true_eq, bne_iff_ne, and_assoc]


theorem Memory.wfFrom_mono {low low' : Nat} (h : low ≤ low') :
    ∀ {m : Memory}, Memory.wfFrom low' m = true → Memory.wfFrom low m = true
  | [], _ => rfl
  | (a, v) :: m, hm => by
    rw [Memory.wfFrom_cons] at hm ⊢
    exact ⟨by omega, hm.2⟩

/-- Below the first cell every address reads as unlisted. -/
theorem Memory.read_below {low a : Nat} (h : a < low) :
    ∀ {m : Memory}, Memory.wfFrom low m = true → Memory.read m a = Memory.unlisted a
  | [], _ => rfl
  | (b, w) :: m, hm => by
    rw [Memory.wfFrom_cons] at hm
    have hne : a ≠ b := by omega
    simp only [Memory.read, hne, if_false]
    exact Memory.read_below (by omega) hm.2.2.2

theorem Memory.read_list {low a : Nat} {m : Memory} (v : Byte) (ha : a < low) (hm : Memory.wfFrom low m = true) :
    Memory.read (Memory.list a v m) a = v := by
  unfold Memory.list
  split
  · next h => rw [Memory.read_below ha hm, h]
  · simp [Memory.read]

theorem Memory.read_list_other {a b : Nat} (v : Byte) (m : Memory) (h : b ≠ a) :
    Memory.read (Memory.list a v m) b = Memory.read m b := by
  unfold Memory.list
  split
  · rfl
  · simp [Memory.read, h]

theorem Memory.read_write_same_from (a : Nat) (v : Byte) :
    ∀ {low : Nat} {m : Memory}, Memory.wfFrom low m = true → Memory.read (Memory.write m a v) a = v
  | _, [], _ => Memory.read_list (low := a + 1) v (by omega) rfl
  | low, (b, w) :: m, hm => by
    have hm' := hm
    rw [Memory.wfFrom_cons] at hm
    unfold Memory.write
    split
    · next h =>
      apply Memory.read_list (low := b) v h
      rw [Memory.wfFrom_cons]; exact ⟨Nat.le_refl b, hm.2⟩
    · split
      · next h => subst h; exact Memory.read_list v (Nat.lt_succ_self a) hm.2.2.2
      · next h =>
        simp only [Memory.read, h, if_false]
        exact Memory.read_write_same_from a v hm.2.2.2

/-- A read after a write to the same address gives the byte written. -/
theorem Memory.read_write_same {m : Memory} (hm : m.wf = true) (a : Nat) (v : Byte) :
    Memory.read (Memory.write m a v) a = v := Memory.read_write_same_from a v hm

/-- A write leaves every other address alone. -/
theorem Memory.read_write_other {a b : Nat} (h : b ≠ a) (v : Byte) :
    ∀ (m : Memory), Memory.read (Memory.write m a v) b = Memory.read m b
  | [] => Memory.read_list_other v [] h
  | (c, w) :: m => by
    unfold Memory.write
    split
    · exact Memory.read_list_other v _ h
    · split
      · next e => subst e; rw [Memory.read_list_other v m h]; simp [Memory.read, h]
      · simp only [Memory.read, Memory.read_write_other h v m]

theorem Memory.wfFrom_list {low a : Nat} {m : Memory} (v : Byte) (hl : low ≤ a) (ha : a < 0x1000)
    (hm : Memory.wfFrom (a + 1) m = true) : Memory.wfFrom low (Memory.list a v m) = true := by
  unfold Memory.list
  split
  · exact Memory.wfFrom_mono (by omega) hm
  · next h => rw [Memory.wfFrom_cons]; exact ⟨hl, ha, h, hm⟩

theorem Memory.wfFrom_write {a : Nat} (ha : a < 0x1000) (v : Byte) :
    ∀ {low : Nat} {m : Memory}, low ≤ a → Memory.wfFrom low m = true → Memory.wfFrom low (Memory.write m a v) = true
  | _, [], hl, _ => Memory.wfFrom_list v hl ha rfl
  | low, (b, w) :: m, hl, hm => by
    rw [Memory.wfFrom_cons] at hm
    unfold Memory.write
    split
    · next h =>
      apply Memory.wfFrom_list v hl ha
      rw [Memory.wfFrom_cons]; exact ⟨h, hm.2⟩
    · split
      · next h => subst h; exact Memory.wfFrom_list v hl ha hm.2.2.2
      · next h h' =>
        rw [Memory.wfFrom_cons]
        exact ⟨hm.1, hm.2.1, hm.2.2.1, Memory.wfFrom_write ha v (by omega) hm.2.2.2⟩

/-- A write inside the address space keeps the canonical form. -/
theorem Memory.wf_write {m : Memory} (hm : m.wf = true) {a : Nat} (ha : a < 0x1000) (v : Byte) :
    (m.write a v).wf = true := Memory.wfFrom_write ha v (Nat.zero_le a) hm

theorem Memory.wf_nil : Memory.wf [] = true := rfl

/-- A block write inside the address space keeps the canonical form. -/
theorem Memory.wf_writeBlock : ∀ {bs : List Byte} {m : Memory} {base : Nat},
    m.wf = true → base + bs.length ≤ 0x1000 → (m.writeBlock base bs).wf = true
  | [], _, _, hm, _ => hm
  | b :: bs, m, base, hm, h => by
    simp only [List.length_cons] at h
    show ((m.write base b).writeBlock (base + 1) bs).wf = true
    exact Memory.wf_writeBlock (Memory.wf_write hm (show base < 0x1000 by omega) b) (by omega)

/-- A block write leaves every address outside the block alone. -/
theorem Memory.read_writeBlock_outside : ∀ {bs : List Byte} {m : Memory} {base a : Nat},
    (a < base ∨ base + bs.length ≤ a) → (m.writeBlock base bs).read a = m.read a
  | [], _, _, _, _ => rfl
  | b :: bs, m, base, a, h => by
    simp only [List.length_cons] at h
    have e : (m.writeBlock base (b :: bs)).read a = (m.write base b).read a :=
      Memory.read_writeBlock_outside (bs := bs) (by omega)
    rw [e]
    exact Memory.read_write_other (by omega) b m

/-- A block write puts the bytes at the addresses of the block, in order. -/
theorem Memory.read_writeBlock_inside : ∀ {bs : List Byte} {m : Memory} {base k : Nat} (hk : k < bs.length),
    m.wf = true → base + bs.length ≤ 0x1000 → (m.writeBlock base bs).read (base + k) = bs[k]
  | [], _, _, k, hk, _, _ => absurd hk (Nat.not_lt_zero k)
  | b :: bs, m, base, 0, _, hm, _ => by
    have e : (m.writeBlock base (b :: bs)).read (base + 0) = (m.write base b).read (base + 0) :=
      Memory.read_writeBlock_outside (bs := bs) (by omega)
    rw [e]
    exact Memory.read_write_same hm base b
  | b :: bs, m, base, k + 1, hk, hm, h => by
    simp only [List.length_cons] at h hk
    have := Memory.read_writeBlock_inside (bs := bs) (base := base + 1) (k := k) (by omega)
      (Memory.wf_write hm (show base < 0x1000 by omega) b) (by omega)
    rw [show base + (k + 1) = base + 1 + k by omega]
    exact this

theorem Memory.ext_from : ∀ {low : Nat} {m m' : Memory}, Memory.wfFrom low m = true → Memory.wfFrom low m' = true →
    (∀ a, Memory.read m a = Memory.read m' a) → m = m'
  | _, [], [], _, _, _ => rfl
  | _, [], (b, w) :: m', _, h', e => by
    rw [Memory.wfFrom_cons] at h'
    have := e b
    simp only [Memory.read, if_true] at this
    exact absurd this.symm h'.2.2.1
  | _, (a, v) :: m, [], h, _, e => by
    rw [Memory.wfFrom_cons] at h
    have := e a
    simp only [Memory.read, if_true] at this
    exact absurd this h.2.2.1
  | _, (a, v) :: m, (b, w) :: m', h, h', e => by
    have hc := h
    have hc' := h'
    rw [Memory.wfFrom_cons] at h h'
    have hab : a = b := by
      rcases Nat.lt_trichotomy a b with hlt | heq | hgt
      · have := e a
        rw [Memory.read_below (low := b) hlt (Memory.wfFrom_cons.2 ⟨Nat.le_refl b, h'.2⟩)] at this
        simp only [Memory.read, if_true] at this
        exact absurd this h.2.2.1
      · exact heq
      · have := e b
        rw [Memory.read_below (low := a) hgt (Memory.wfFrom_cons.2 ⟨Nat.le_refl a, h.2⟩)] at this
        simp only [Memory.read, if_true] at this
        exact absurd this.symm h'.2.2.1
    subst hab
    have hv : v = w := by have := e a; simpa [Memory.read] using this
    subst hv
    have : m = m' := by
      apply Memory.ext_from h.2.2.2 h'.2.2.2
      intro c
      by_cases hca : c = a
      · subst hca
        rw [Memory.read_below (Nat.lt_succ_self c) h.2.2.2, Memory.read_below (Nat.lt_succ_self c) h'.2.2.2]
      · have := e c
        simpa [Memory.read, hca] using this
    rw [this]

/-- Canonical memories that read alike are equal data. -/
theorem Memory.ext {m m' : Memory} (h : m.wf = true) (h' : m'.wf = true) (e : ∀ a, m.read a = m'.read a) : m = m' :=
  Memory.ext_from h h' e

/-- What the block load leaves in register `k`. -/
theorem Memory.getElem_loadBlock (m : Memory) (base : Nat) (v : Regs) :
    ∀ (count : Nat) {k : Nat} (hk : k < 16),
      (m.loadBlock base v count)[k] = if k < count then m.read (base + k) else v[k]
  | 0, k, hk => by simp [Memory.loadBlock]
  | n + 1, k, hk => by
    have ih := Memory.getElem_loadBlock m base v n hk
    simp only [Memory.loadBlock]
    rw [Vector.getElem_setIfInBounds]
    by_cases h : n = k
    · subst h; simp
    · rw [if_neg h, ih]
      by_cases h' : k < n
      · simp [h', show k < n + 1 by omega]
      · simp [h', show ¬ k < n + 1 by omega]

end Sys2Proof.Machine
end

