-- ==== Sys2Proof/Laws/State.lean ====
section
/-! SUPPORT. One lemma per field per update of the state, so that no later proof unfolds a record update; the registers and
the fetch after an update. -/

namespace Sys2Proof.Machine

/-! `State.setV` -/

@[simp] theorem State.setV_v (s : State) (x : RegIdx) (b : Byte) : (s.setV x b).v = s.v.set x.toNat b (show x.toNat < 16 from x.isLt) := rfl
@[simp] theorem State.setV_i (s : State) (x : RegIdx) (b : Byte) : (s.setV x b).i = s.i := rfl
@[simp] theorem State.setV_pc (s : State) (x : RegIdx) (b : Byte) : (s.setV x b).pc = s.pc := rfl
@[simp] theorem State.setV_sp (s : State) (x : RegIdx) (b : Byte) : (s.setV x b).sp = s.sp := rfl
@[simp] theorem State.setV_stk (s : State) (x : RegIdx) (b : Byte) : (s.setV x b).stk = s.stk := rfl
@[simp] theorem State.setV_dt (s : State) (x : RegIdx) (b : Byte) : (s.setV x b).dt = s.dt := rfl
@[simp] theorem State.setV_st (s : State) (x : RegIdx) (b : Byte) : (s.setV x b).st = s.st := rfl
@[simp] theorem State.setV_fb (s : State) (x : RegIdx) (b : Byte) : (s.setV x b).fb = s.fb := rfl
@[simp] theorem State.setV_key (s : State) (x : RegIdx) (b : Byte) : (s.setV x b).key = s.key := rfl
@[simp] theorem State.setV_wait (s : State) (x : RegIdx) (b : Byte) : (s.setV x b).wait = s.wait := rfl
@[simp] theorem State.setV_redraw (s : State) (x : RegIdx) (b : Byte) : (s.setV x b).redraw = s.redraw := rfl
@[simp] theorem State.setV_fault (s : State) (x : RegIdx) (b : Byte) : (s.setV x b).fault = s.fault := rfl
@[simp] theorem State.setV_mem (s : State) (x : RegIdx) (b : Byte) : (s.setV x b).mem = s.mem := rfl
@[simp] theorem State.setV_rndIn (s : State) (x : RegIdx) (b : Byte) : (s.setV x b).rndIn = s.rndIn := rfl
@[simp] theorem State.setV_draws (s : State) (x : RegIdx) (b : Byte) : (s.setV x b).draws = s.draws := rfl

/-! `State.setRegs` -/

@[simp] theorem State.setRegs_v (s : State) (w : Regs) : (s.setRegs w).v = w := rfl
@[simp] theorem State.setRegs_i (s : State) (w : Regs) : (s.setRegs w).i = s.i := rfl
@[simp] theorem State.setRegs_pc (s : State) (w : Regs) : (s.setRegs w).pc = s.pc := rfl
@[simp] theorem State.setRegs_sp (s : State) (w : Regs) : (s.setRegs w).sp = s.sp := rfl
@[simp] theorem State.setRegs_stk (s : State) (w : Regs) : (s.setRegs w).stk = s.stk := rfl
@[simp] theorem State.setRegs_dt (s : State) (w : Regs) : (s.setRegs w).dt = s.dt := rfl
@[simp] theorem State.setRegs_st (s : State) (w : Regs) : (s.setRegs w).st = s.st := rfl
@[simp] theorem State.setRegs_fb (s : State) (w : Regs) : (s.setRegs w).fb = s.fb := rfl
@[simp] theorem State.setRegs_key (s : State) (w : Regs) : (s.setRegs w).key = s.key := rfl
@[simp] theorem State.setRegs_wait (s : State) (w : Regs) : (s.setRegs w).wait = s.wait := rfl
@[simp] theorem State.setRegs_redraw (s : State) (w : Regs) : (s.setRegs w).redraw = s.redraw := rfl
@[simp] theorem State.setRegs_fault (s : State) (w : Regs) : (s.setRegs w).fault = s.fault := rfl
@[simp] theorem State.setRegs_mem (s : State) (w : Regs) : (s.setRegs w).mem = s.mem := rfl
@[simp] theorem State.setRegs_rndIn (s : State) (w : Regs) : (s.setRegs w).rndIn = s.rndIn := rfl
@[simp] theorem State.setRegs_draws (s : State) (w : Regs) : (s.setRegs w).draws = s.draws := rfl

/-! `State.setI` -/

@[simp] theorem State.setI_v (s : State) (w : Word) : (s.setI w).v = s.v := rfl
@[simp] theorem State.setI_i (s : State) (w : Word) : (s.setI w).i = w := rfl
@[simp] theorem State.setI_pc (s : State) (w : Word) : (s.setI w).pc = s.pc := rfl
@[simp] theorem State.setI_sp (s : State) (w : Word) : (s.setI w).sp = s.sp := rfl
@[simp] theorem State.setI_stk (s : State) (w : Word) : (s.setI w).stk = s.stk := rfl
@[simp] theorem State.setI_dt (s : State) (w : Word) : (s.setI w).dt = s.dt := rfl
@[simp] theorem State.setI_st (s : State) (w : Word) : (s.setI w).st = s.st := rfl
@[simp] theorem State.setI_fb (s : State) (w : Word) : (s.setI w).fb = s.fb := rfl
@[simp] theorem State.setI_key (s : State) (w : Word) : (s.setI w).key = s.key := rfl
@[simp] theorem State.setI_wait (s : State) (w : Word) : (s.setI w).wait = s.wait := rfl
@[simp] theorem State.setI_redraw (s : State) (w : Word) : (s.setI w).redraw = s.redraw := rfl
@[simp] theorem State.setI_fault (s : State) (w : Word) : (s.setI w).fault = s.fault := rfl
@[simp] theorem State.setI_mem (s : State) (w : Word) : (s.setI w).mem = s.mem := rfl
@[simp] theorem State.setI_rndIn (s : State) (w : Word) : (s.setI w).rndIn = s.rndIn := rfl
@[simp] theorem State.setI_draws (s : State) (w : Word) : (s.setI w).draws = s.draws := rfl
@[simp] theorem State.setI_getV (s : State) (w : Word) (r : RegIdx) : (s.setI w).getV r = s.getV r := rfl

/-! `State.setPc` -/

@[simp] theorem State.setPc_v (s : State) (w : Word) : (s.setPc w).v = s.v := rfl
@[simp] theorem State.setPc_i (s : State) (w : Word) : (s.setPc w).i = s.i := rfl
@[simp] theorem State.setPc_pc (s : State) (w : Word) : (s.setPc w).pc = w := rfl
@[simp] theorem State.setPc_sp (s : State) (w : Word) : (s.setPc w).sp = s.sp := rfl
@[simp] theorem State.setPc_stk (s : State) (w : Word) : (s.setPc w).stk = s.stk := rfl
@[simp] theorem State.setPc_dt (s : State) (w : Word) : (s.setPc w).dt = s.dt := rfl
@[simp] theorem State.setPc_st (s : State) (w : Word) : (s.setPc w).st = s.st := rfl
@[simp] theorem State.setPc_fb (s : State) (w : Word) : (s.setPc w).fb = s.fb := rfl
@[simp] theorem State.setPc_key (s : State) (w : Word) : (s.setPc w).key = s.key := rfl
@[simp] theorem State.setPc_wait (s : State) (w : Word) : (s.setPc w).wait = s.wait := rfl
@[simp] theorem State.setPc_redraw (s : State) (w : Word) : (s.setPc w).redraw = s.redraw := rfl
@[simp] theorem State.setPc_fault (s : State) (w : Word) : (s.setPc w).fault = s.fault := rfl
@[simp] theorem State.setPc_mem (s : State) (w : Word) : (s.setPc w).mem = s.mem := rfl
@[simp] theorem State.setPc_rndIn (s : State) (w : Word) : (s.setPc w).rndIn = s.rndIn := rfl
@[simp] theorem State.setPc_draws (s : State) (w : Word) : (s.setPc w).draws = s.draws := rfl
@[simp] theorem State.setPc_getV (s : State) (w : Word) (r : RegIdx) : (s.setPc w).getV r = s.getV r := rfl

/-! `State.setSp` -/

@[simp] theorem State.setSp_v (s : State) (n : Fin 17) : (s.setSp n).v = s.v := rfl
@[simp] theorem State.setSp_i (s : State) (n : Fin 17) : (s.setSp n).i = s.i := rfl
@[simp] theorem State.setSp_pc (s : State) (n : Fin 17) : (s.setSp n).pc = s.pc := rfl
@[simp] theorem State.setSp_sp (s : State) (n : Fin 17) : (s.setSp n).sp = n := rfl
@[simp] theorem State.setSp_stk (s : State) (n : Fin 17) : (s.setSp n).stk = s.stk := rfl
@[simp] theorem State.setSp_dt (s : State) (n : Fin 17) : (s.setSp n).dt = s.dt := rfl
@[simp] theorem State.setSp_st (s : State) (n : Fin 17) : (s.setSp n).st = s.st := rfl
@[simp] theorem State.setSp_fb (s : State) (n : Fin 17) : (s.setSp n).fb = s.fb := rfl
@[simp] theorem State.setSp_key (s : State) (n : Fin 17) : (s.setSp n).key = s.key := rfl
@[simp] theorem State.setSp_wait (s : State) (n : Fin 17) : (s.setSp n).wait = s.wait := rfl
@[simp] theorem State.setSp_redraw (s : State) (n : Fin 17) : (s.setSp n).redraw = s.redraw := rfl
@[simp] theorem State.setSp_fault (s : State) (n : Fin 17) : (s.setSp n).fault = s.fault := rfl
@[simp] theorem State.setSp_mem (s : State) (n : Fin 17) : (s.setSp n).mem = s.mem := rfl
@[simp] theorem State.setSp_rndIn (s : State) (n : Fin 17) : (s.setSp n).rndIn = s.rndIn := rfl
@[simp] theorem State.setSp_draws (s : State) (n : Fin 17) : (s.setSp n).draws = s.draws := rfl
@[simp] theorem State.setSp_getV (s : State) (n : Fin 17) (r : RegIdx) : (s.setSp n).getV r = s.getV r := rfl

/-! `State.setStk` -/

@[simp] theorem State.setStk_v (s : State) (w : Vector Word 16) : (s.setStk w).v = s.v := rfl
@[simp] theorem State.setStk_i (s : State) (w : Vector Word 16) : (s.setStk w).i = s.i := rfl
@[simp] theorem State.setStk_pc (s : State) (w : Vector Word 16) : (s.setStk w).pc = s.pc := rfl
@[simp] theorem State.setStk_sp (s : State) (w : Vector Word 16) : (s.setStk w).sp = s.sp := rfl
@[simp] theorem State.setStk_stk (s : State) (w : Vector Word 16) : (s.setStk w).stk = w := rfl
@[simp] theorem State.setStk_dt (s : State) (w : Vector Word 16) : (s.setStk w).dt = s.dt := rfl
@[simp] theorem State.setStk_st (s : State) (w : Vector Word 16) : (s.setStk w).st = s.st := rfl
@[simp] theorem State.setStk_fb (s : State) (w : Vector Word 16) : (s.setStk w).fb = s.fb := rfl
@[simp] theorem State.setStk_key (s : State) (w : Vector Word 16) : (s.setStk w).key = s.key := rfl
@[simp] theorem State.setStk_wait (s : State) (w : Vector Word 16) : (s.setStk w).wait = s.wait := rfl
@[simp] theorem State.setStk_redraw (s : State) (w : Vector Word 16) : (s.setStk w).redraw = s.redraw := rfl
@[simp] theorem State.setStk_fault (s : State) (w : Vector Word 16) : (s.setStk w).fault = s.fault := rfl
@[simp] theorem State.setStk_mem (s : State) (w : Vector Word 16) : (s.setStk w).mem = s.mem := rfl
@[simp] theorem State.setStk_rndIn (s : State) (w : Vector Word 16) : (s.setStk w).rndIn = s.rndIn := rfl
@[simp] theorem State.setStk_draws (s : State) (w : Vector Word 16) : (s.setStk w).draws = s.draws := rfl
@[simp] theorem State.setStk_getV (s : State) (w : Vector Word 16) (r : RegIdx) : (s.setStk w).getV r = s.getV r := rfl

/-! `State.setDt` -/

@[simp] theorem State.setDt_v (s : State) (b : Byte) : (s.setDt b).v = s.v := rfl
@[simp] theorem State.setDt_i (s : State) (b : Byte) : (s.setDt b).i = s.i := rfl
@[simp] theorem State.setDt_pc (s : State) (b : Byte) : (s.setDt b).pc = s.pc := rfl
@[simp] theorem State.setDt_sp (s : State) (b : Byte) : (s.setDt b).sp = s.sp := rfl
@[simp] theorem State.setDt_stk (s : State) (b : Byte) : (s.setDt b).stk = s.stk := rfl
@[simp] theorem State.setDt_dt (s : State) (b : Byte) : (s.setDt b).dt = b := rfl
@[simp] theorem State.setDt_st (s : State) (b : Byte) : (s.setDt b).st = s.st := rfl
@[simp] theorem State.setDt_fb (s : State) (b : Byte) : (s.setDt b).fb = s.fb := rfl
@[simp] theorem State.setDt_key (s : State) (b : Byte) : (s.setDt b).key = s.key := rfl
@[simp] theorem State.setDt_wait (s : State) (b : Byte) : (s.setDt b).wait = s.wait := rfl
@[simp] theorem State.setDt_redraw (s : State) (b : Byte) : (s.setDt b).redraw = s.redraw := rfl
@[simp] theorem State.setDt_fault (s : State) (b : Byte) : (s.setDt b).fault = s.fault := rfl
@[simp] theorem State.setDt_mem (s : State) (b : Byte) : (s.setDt b).mem = s.mem := rfl
@[simp] theorem State.setDt_rndIn (s : State) (b : Byte) : (s.setDt b).rndIn = s.rndIn := rfl
@[simp] theorem State.setDt_draws (s : State) (b : Byte) : (s.setDt b).draws = s.draws := rfl
@[simp] theorem State.setDt_getV (s : State) (b : Byte) (r : RegIdx) : (s.setDt b).getV r = s.getV r := rfl

/-! `State.setSt` -/

@[simp] theorem State.setSt_v (s : State) (b : Byte) : (s.setSt b).v = s.v := rfl
@[simp] theorem State.setSt_i (s : State) (b : Byte) : (s.setSt b).i = s.i := rfl
@[simp] theorem State.setSt_pc (s : State) (b : Byte) : (s.setSt b).pc = s.pc := rfl
@[simp] theorem State.setSt_sp (s : State) (b : Byte) : (s.setSt b).sp = s.sp := rfl
@[simp] theorem State.setSt_stk (s : State) (b : Byte) : (s.setSt b).stk = s.stk := rfl
@[simp] theorem State.setSt_dt (s : State) (b : Byte) : (s.setSt b).dt = s.dt := rfl
@[simp] theorem State.setSt_st (s : State) (b : Byte) : (s.setSt b).st = b := rfl
@[simp] theorem State.setSt_fb (s : State) (b : Byte) : (s.setSt b).fb = s.fb := rfl
@[simp] theorem State.setSt_key (s : State) (b : Byte) : (s.setSt b).key = s.key := rfl
@[simp] theorem State.setSt_wait (s : State) (b : Byte) : (s.setSt b).wait = s.wait := rfl
@[simp] theorem State.setSt_redraw (s : State) (b : Byte) : (s.setSt b).redraw = s.redraw := rfl
@[simp] theorem State.setSt_fault (s : State) (b : Byte) : (s.setSt b).fault = s.fault := rfl
@[simp] theorem State.setSt_mem (s : State) (b : Byte) : (s.setSt b).mem = s.mem := rfl
@[simp] theorem State.setSt_rndIn (s : State) (b : Byte) : (s.setSt b).rndIn = s.rndIn := rfl
@[simp] theorem State.setSt_draws (s : State) (b : Byte) : (s.setSt b).draws = s.draws := rfl
@[simp] theorem State.setSt_getV (s : State) (b : Byte) (r : RegIdx) : (s.setSt b).getV r = s.getV r := rfl

/-! `State.setFb` -/

@[simp] theorem State.setFb_v (s : State) (f : Screen) : (s.setFb f).v = s.v := rfl
@[simp] theorem State.setFb_i (s : State) (f : Screen) : (s.setFb f).i = s.i := rfl
@[simp] theorem State.setFb_pc (s : State) (f : Screen) : (s.setFb f).pc = s.pc := rfl
@[simp] theorem State.setFb_sp (s : State) (f : Screen) : (s.setFb f).sp = s.sp := rfl
@[simp] theorem State.setFb_stk (s : State) (f : Screen) : (s.setFb f).stk = s.stk := rfl
@[simp] theorem State.setFb_dt (s : State) (f : Screen) : (s.setFb f).dt = s.dt := rfl
@[simp] theorem State.setFb_st (s : State) (f : Screen) : (s.setFb f).st = s.st := rfl
@[simp] theorem State.setFb_fb (s : State) (f : Screen) : (s.setFb f).fb = f := rfl
@[simp] theorem State.setFb_key (s : State) (f : Screen) : (s.setFb f).key = s.key := rfl
@[simp] theorem State.setFb_wait (s : State) (f : Screen) : (s.setFb f).wait = s.wait := rfl
@[simp] theorem State.setFb_redraw (s : State) (f : Screen) : (s.setFb f).redraw = s.redraw := rfl
@[simp] theorem State.setFb_fault (s : State) (f : Screen) : (s.setFb f).fault = s.fault := rfl
@[simp] theorem State.setFb_mem (s : State) (f : Screen) : (s.setFb f).mem = s.mem := rfl
@[simp] theorem State.setFb_rndIn (s : State) (f : Screen) : (s.setFb f).rndIn = s.rndIn := rfl
@[simp] theorem State.setFb_draws (s : State) (f : Screen) : (s.setFb f).draws = s.draws := rfl
@[simp] theorem State.setFb_getV (s : State) (f : Screen) (r : RegIdx) : (s.setFb f).getV r = s.getV r := rfl

/-! `State.setKey` -/

@[simp] theorem State.setKey_v (s : State) (k : Vector Bool 16) : (s.setKey k).v = s.v := rfl
@[simp] theorem State.setKey_i (s : State) (k : Vector Bool 16) : (s.setKey k).i = s.i := rfl
@[simp] theorem State.setKey_pc (s : State) (k : Vector Bool 16) : (s.setKey k).pc = s.pc := rfl
@[simp] theorem State.setKey_sp (s : State) (k : Vector Bool 16) : (s.setKey k).sp = s.sp := rfl
@[simp] theorem State.setKey_stk (s : State) (k : Vector Bool 16) : (s.setKey k).stk = s.stk := rfl
@[simp] theorem State.setKey_dt (s : State) (k : Vector Bool 16) : (s.setKey k).dt = s.dt := rfl
@[simp] theorem State.setKey_st (s : State) (k : Vector Bool 16) : (s.setKey k).st = s.st := rfl
@[simp] theorem State.setKey_fb (s : State) (k : Vector Bool 16) : (s.setKey k).fb = s.fb := rfl
@[simp] theorem State.setKey_key (s : State) (k : Vector Bool 16) : (s.setKey k).key = k := rfl
@[simp] theorem State.setKey_wait (s : State) (k : Vector Bool 16) : (s.setKey k).wait = s.wait := rfl
@[simp] theorem State.setKey_redraw (s : State) (k : Vector Bool 16) : (s.setKey k).redraw = s.redraw := rfl
@[simp] theorem State.setKey_fault (s : State) (k : Vector Bool 16) : (s.setKey k).fault = s.fault := rfl
@[simp] theorem State.setKey_mem (s : State) (k : Vector Bool 16) : (s.setKey k).mem = s.mem := rfl
@[simp] theorem State.setKey_rndIn (s : State) (k : Vector Bool 16) : (s.setKey k).rndIn = s.rndIn := rfl
@[simp] theorem State.setKey_draws (s : State) (k : Vector Bool 16) : (s.setKey k).draws = s.draws := rfl
@[simp] theorem State.setKey_getV (s : State) (k : Vector Bool 16) (r : RegIdx) : (s.setKey k).getV r = s.getV r := rfl

/-! `State.setWait` -/

@[simp] theorem State.setWait_v (s : State) (w : Wait) : (s.setWait w).v = s.v := rfl
@[simp] theorem State.setWait_i (s : State) (w : Wait) : (s.setWait w).i = s.i := rfl
@[simp] theorem State.setWait_pc (s : State) (w : Wait) : (s.setWait w).pc = s.pc := rfl
@[simp] theorem State.setWait_sp (s : State) (w : Wait) : (s.setWait w).sp = s.sp := rfl
@[simp] theorem State.setWait_stk (s : State) (w : Wait) : (s.setWait w).stk = s.stk := rfl
@[simp] theorem State.setWait_dt (s : State) (w : Wait) : (s.setWait w).dt = s.dt := rfl
@[simp] theorem State.setWait_st (s : State) (w : Wait) : (s.setWait w).st = s.st := rfl
@[simp] theorem State.setWait_fb (s : State) (w : Wait) : (s.setWait w).fb = s.fb := rfl
@[simp] theorem State.setWait_key (s : State) (w : Wait) : (s.setWait w).key = s.key := rfl
@[simp] theorem State.setWait_wait (s : State) (w : Wait) : (s.setWait w).wait = w := rfl
@[simp] theorem State.setWait_redraw (s : State) (w : Wait) : (s.setWait w).redraw = s.redraw := rfl
@[simp] theorem State.setWait_fault (s : State) (w : Wait) : (s.setWait w).fault = s.fault := rfl
@[simp] theorem State.setWait_mem (s : State) (w : Wait) : (s.setWait w).mem = s.mem := rfl
@[simp] theorem State.setWait_rndIn (s : State) (w : Wait) : (s.setWait w).rndIn = s.rndIn := rfl
@[simp] theorem State.setWait_draws (s : State) (w : Wait) : (s.setWait w).draws = s.draws := rfl
@[simp] theorem State.setWait_getV (s : State) (w : Wait) (r : RegIdx) : (s.setWait w).getV r = s.getV r := rfl

/-! `State.setRedraw` -/

@[simp] theorem State.setRedraw_v (s : State) (b : Bool) : (s.setRedraw b).v = s.v := rfl
@[simp] theorem State.setRedraw_i (s : State) (b : Bool) : (s.setRedraw b).i = s.i := rfl
@[simp] theorem State.setRedraw_pc (s : State) (b : Bool) : (s.setRedraw b).pc = s.pc := rfl
@[simp] theorem State.setRedraw_sp (s : State) (b : Bool) : (s.setRedraw b).sp = s.sp := rfl
@[simp] theorem State.setRedraw_stk (s : State) (b : Bool) : (s.setRedraw b).stk = s.stk := rfl
@[simp] theorem State.setRedraw_dt (s : State) (b : Bool) : (s.setRedraw b).dt = s.dt := rfl
@[simp] theorem State.setRedraw_st (s : State) (b : Bool) : (s.setRedraw b).st = s.st := rfl
@[simp] theorem State.setRedraw_fb (s : State) (b : Bool) : (s.setRedraw b).fb = s.fb := rfl
@[simp] theorem State.setRedraw_key (s : State) (b : Bool) : (s.setRedraw b).key = s.key := rfl
@[simp] theorem State.setRedraw_wait (s : State) (b : Bool) : (s.setRedraw b).wait = s.wait := rfl
@[simp] theorem State.setRedraw_redraw (s : State) (b : Bool) : (s.setRedraw b).redraw = b := rfl
@[simp] theorem State.setRedraw_fault (s : State) (b : Bool) : (s.setRedraw b).fault = s.fault := rfl
@[simp] theorem State.setRedraw_mem (s : State) (b : Bool) : (s.setRedraw b).mem = s.mem := rfl
@[simp] theorem State.setRedraw_rndIn (s : State) (b : Bool) : (s.setRedraw b).rndIn = s.rndIn := rfl
@[simp] theorem State.setRedraw_draws (s : State) (b : Bool) : (s.setRedraw b).draws = s.draws := rfl
@[simp] theorem State.setRedraw_getV (s : State) (b : Bool) (r : RegIdx) : (s.setRedraw b).getV r = s.getV r := rfl

/-! `State.setFault` -/

@[simp] theorem State.setFault_v (s : State) (c : FaultCode) : (s.setFault c).v = s.v := rfl
@[simp] theorem State.setFault_i (s : State) (c : FaultCode) : (s.setFault c).i = s.i := rfl
@[simp] theorem State.setFault_pc (s : State) (c : FaultCode) : (s.setFault c).pc = s.pc := rfl
@[simp] theorem State.setFault_sp (s : State) (c : FaultCode) : (s.setFault c).sp = s.sp := rfl
@[simp] theorem State.setFault_stk (s : State) (c : FaultCode) : (s.setFault c).stk = s.stk := rfl
@[simp] theorem State.setFault_dt (s : State) (c : FaultCode) : (s.setFault c).dt = s.dt := rfl
@[simp] theorem State.setFault_st (s : State) (c : FaultCode) : (s.setFault c).st = s.st := rfl
@[simp] theorem State.setFault_fb (s : State) (c : FaultCode) : (s.setFault c).fb = s.fb := rfl
@[simp] theorem State.setFault_key (s : State) (c : FaultCode) : (s.setFault c).key = s.key := rfl
@[simp] theorem State.setFault_wait (s : State) (c : FaultCode) : (s.setFault c).wait = s.wait := rfl
@[simp] theorem State.setFault_redraw (s : State) (c : FaultCode) : (s.setFault c).redraw = s.redraw := rfl
@[simp] theorem State.setFault_fault (s : State) (c : FaultCode) : (s.setFault c).fault = c := rfl
@[simp] theorem State.setFault_mem (s : State) (c : FaultCode) : (s.setFault c).mem = s.mem := rfl
@[simp] theorem State.setFault_rndIn (s : State) (c : FaultCode) : (s.setFault c).rndIn = s.rndIn := rfl
@[simp] theorem State.setFault_draws (s : State) (c : FaultCode) : (s.setFault c).draws = s.draws := rfl
@[simp] theorem State.setFault_getV (s : State) (c : FaultCode) (r : RegIdx) : (s.setFault c).getV r = s.getV r := rfl

/-! `State.setMem` -/

@[simp] theorem State.setMem_v (s : State) (m : Memory) : (s.setMem m).v = s.v := rfl
@[simp] theorem State.setMem_i (s : State) (m : Memory) : (s.setMem m).i = s.i := rfl
@[simp] theorem State.setMem_pc (s : State) (m : Memory) : (s.setMem m).pc = s.pc := rfl
@[simp] theorem State.setMem_sp (s : State) (m : Memory) : (s.setMem m).sp = s.sp := rfl
@[simp] theorem State.setMem_stk (s : State) (m : Memory) : (s.setMem m).stk = s.stk := rfl
@[simp] theorem State.setMem_dt (s : State) (m : Memory) : (s.setMem m).dt = s.dt := rfl
@[simp] theorem State.setMem_st (s : State) (m : Memory) : (s.setMem m).st = s.st := rfl
@[simp] theorem State.setMem_fb (s : State) (m : Memory) : (s.setMem m).fb = s.fb := rfl
@[simp] theorem State.setMem_key (s : State) (m : Memory) : (s.setMem m).key = s.key := rfl
@[simp] theorem State.setMem_wait (s : State) (m : Memory) : (s.setMem m).wait = s.wait := rfl
@[simp] theorem State.setMem_redraw (s : State) (m : Memory) : (s.setMem m).redraw = s.redraw := rfl
@[simp] theorem State.setMem_fault (s : State) (m : Memory) : (s.setMem m).fault = s.fault := rfl
@[simp] theorem State.setMem_mem (s : State) (m : Memory) : (s.setMem m).mem = m := rfl
@[simp] theorem State.setMem_rndIn (s : State) (m : Memory) : (s.setMem m).rndIn = s.rndIn := rfl
@[simp] theorem State.setMem_draws (s : State) (m : Memory) : (s.setMem m).draws = s.draws := rfl
@[simp] theorem State.setMem_getV (s : State) (m : Memory) (r : RegIdx) : (s.setMem m).getV r = s.getV r := rfl

/-! `State.setRndIn` -/

@[simp] theorem State.setRndIn_v (s : State) (b : Option Byte) : (s.setRndIn b).v = s.v := rfl
@[simp] theorem State.setRndIn_i (s : State) (b : Option Byte) : (s.setRndIn b).i = s.i := rfl
@[simp] theorem State.setRndIn_pc (s : State) (b : Option Byte) : (s.setRndIn b).pc = s.pc := rfl
@[simp] theorem State.setRndIn_sp (s : State) (b : Option Byte) : (s.setRndIn b).sp = s.sp := rfl
@[simp] theorem State.setRndIn_stk (s : State) (b : Option Byte) : (s.setRndIn b).stk = s.stk := rfl
@[simp] theorem State.setRndIn_dt (s : State) (b : Option Byte) : (s.setRndIn b).dt = s.dt := rfl
@[simp] theorem State.setRndIn_st (s : State) (b : Option Byte) : (s.setRndIn b).st = s.st := rfl
@[simp] theorem State.setRndIn_fb (s : State) (b : Option Byte) : (s.setRndIn b).fb = s.fb := rfl
@[simp] theorem State.setRndIn_key (s : State) (b : Option Byte) : (s.setRndIn b).key = s.key := rfl
@[simp] theorem State.setRndIn_wait (s : State) (b : Option Byte) : (s.setRndIn b).wait = s.wait := rfl
@[simp] theorem State.setRndIn_redraw (s : State) (b : Option Byte) : (s.setRndIn b).redraw = s.redraw := rfl
@[simp] theorem State.setRndIn_fault (s : State) (b : Option Byte) : (s.setRndIn b).fault = s.fault := rfl
@[simp] theorem State.setRndIn_mem (s : State) (b : Option Byte) : (s.setRndIn b).mem = s.mem := rfl
@[simp] theorem State.setRndIn_rndIn (s : State) (b : Option Byte) : (s.setRndIn b).rndIn = b := rfl
@[simp] theorem State.setRndIn_draws (s : State) (b : Option Byte) : (s.setRndIn b).draws = s.draws := rfl
@[simp] theorem State.setRndIn_getV (s : State) (b : Option Byte) (r : RegIdx) : (s.setRndIn b).getV r = s.getV r := rfl

/-! `State.setDraws` -/

@[simp] theorem State.setDraws_v (s : State) (n : Nat) : (s.setDraws n).v = s.v := rfl
@[simp] theorem State.setDraws_i (s : State) (n : Nat) : (s.setDraws n).i = s.i := rfl
@[simp] theorem State.setDraws_pc (s : State) (n : Nat) : (s.setDraws n).pc = s.pc := rfl
@[simp] theorem State.setDraws_sp (s : State) (n : Nat) : (s.setDraws n).sp = s.sp := rfl
@[simp] theorem State.setDraws_stk (s : State) (n : Nat) : (s.setDraws n).stk = s.stk := rfl
@[simp] theorem State.setDraws_dt (s : State) (n : Nat) : (s.setDraws n).dt = s.dt := rfl
@[simp] theorem State.setDraws_st (s : State) (n : Nat) : (s.setDraws n).st = s.st := rfl
@[simp] theorem State.setDraws_fb (s : State) (n : Nat) : (s.setDraws n).fb = s.fb := rfl
@[simp] theorem State.setDraws_key (s : State) (n : Nat) : (s.setDraws n).key = s.key := rfl
@[simp] theorem State.setDraws_wait (s : State) (n : Nat) : (s.setDraws n).wait = s.wait := rfl
@[simp] theorem State.setDraws_redraw (s : State) (n : Nat) : (s.setDraws n).redraw = s.redraw := rfl
@[simp] theorem State.setDraws_fault (s : State) (n : Nat) : (s.setDraws n).fault = s.fault := rfl
@[simp] theorem State.setDraws_mem (s : State) (n : Nat) : (s.setDraws n).mem = s.mem := rfl
@[simp] theorem State.setDraws_rndIn (s : State) (n : Nat) : (s.setDraws n).rndIn = s.rndIn := rfl
@[simp] theorem State.setDraws_draws (s : State) (n : Nat) : (s.setDraws n).draws = n := rfl
@[simp] theorem State.setDraws_getV (s : State) (n : Nat) (r : RegIdx) : (s.setDraws n).getV r = s.getV r := rfl

/-! `State.advance` -/

@[simp] theorem State.advance_v (s : State) : s.advance.v = s.v := rfl
@[simp] theorem State.advance_i (s : State) : s.advance.i = s.i := rfl
@[simp] theorem State.advance_pc (s : State) : s.advance.pc = s.pc + 2 := rfl
@[simp] theorem State.advance_sp (s : State) : s.advance.sp = s.sp := rfl
@[simp] theorem State.advance_stk (s : State) : s.advance.stk = s.stk := rfl
@[simp] theorem State.advance_dt (s : State) : s.advance.dt = s.dt := rfl
@[simp] theorem State.advance_st (s : State) : s.advance.st = s.st := rfl
@[simp] theorem State.advance_fb (s : State) : s.advance.fb = s.fb := rfl
@[simp] theorem State.advance_key (s : State) : s.advance.key = s.key := rfl
@[simp] theorem State.advance_wait (s : State) : s.advance.wait = s.wait := rfl
@[simp] theorem State.advance_redraw (s : State) : s.advance.redraw = s.redraw := rfl
@[simp] theorem State.advance_fault (s : State) : s.advance.fault = s.fault := rfl
@[simp] theorem State.advance_mem (s : State) : s.advance.mem = s.mem := rfl
@[simp] theorem State.advance_rndIn (s : State) : s.advance.rndIn = s.rndIn := rfl
@[simp] theorem State.advance_draws (s : State) : s.advance.draws = s.draws := rfl
@[simp] theorem State.advance_getV (s : State) (r : RegIdx) : s.advance.getV r = s.getV r := rfl

/-! `State.skipIf` -/

@[simp] theorem State.skipIf_v (s : State) (c : Bool) : (s.skipIf c).v = s.v := by cases c <;> rfl
@[simp] theorem State.skipIf_i (s : State) (c : Bool) : (s.skipIf c).i = s.i := by cases c <;> rfl
@[simp] theorem State.skipIf_pc (s : State) (c : Bool) : (s.skipIf c).pc = if c then s.pc + 4 else s.pc + 2 := by cases c <;> rfl
@[simp] theorem State.skipIf_sp (s : State) (c : Bool) : (s.skipIf c).sp = s.sp := by cases c <;> rfl
@[simp] theorem State.skipIf_stk (s : State) (c : Bool) : (s.skipIf c).stk = s.stk := by cases c <;> rfl
@[simp] theorem State.skipIf_dt (s : State) (c : Bool) : (s.skipIf c).dt = s.dt := by cases c <;> rfl
@[simp] theorem State.skipIf_st (s : State) (c : Bool) : (s.skipIf c).st = s.st := by cases c <;> rfl
@[simp] theorem State.skipIf_fb (s : State) (c : Bool) : (s.skipIf c).fb = s.fb := by cases c <;> rfl
@[simp] theorem State.skipIf_key (s : State) (c : Bool) : (s.skipIf c).key = s.key := by cases c <;> rfl
@[simp] theorem State.skipIf_wait (s : State) (c : Bool) : (s.skipIf c).wait = s.wait := by cases c <;> rfl
@[simp] theorem State.skipIf_redraw (s : State) (c : Bool) : (s.skipIf c).redraw = s.redraw := by cases c <;> rfl
@[simp] theorem State.skipIf_fault (s : State) (c : Bool) : (s.skipIf c).fault = s.fault := by cases c <;> rfl
@[simp] theorem State.skipIf_mem (s : State) (c : Bool) : (s.skipIf c).mem = s.mem := by cases c <;> rfl
@[simp] theorem State.skipIf_rndIn (s : State) (c : Bool) : (s.skipIf c).rndIn = s.rndIn := by cases c <;> rfl
@[simp] theorem State.skipIf_draws (s : State) (c : Bool) : (s.skipIf c).draws = s.draws := by cases c <;> rfl
@[simp] theorem State.skipIf_getV (s : State) (c : Bool) (r : RegIdx) : (s.skipIf c).getV r = s.getV r := by cases c <;> rfl

/-! `State.timerTick` -/

@[simp] theorem State.timerTick_v (s : State) : s.timerTick.v = s.v := rfl
@[simp] theorem State.timerTick_i (s : State) : s.timerTick.i = s.i := rfl
@[simp] theorem State.timerTick_pc (s : State) : s.timerTick.pc = s.pc := rfl
@[simp] theorem State.timerTick_sp (s : State) : s.timerTick.sp = s.sp := rfl
@[simp] theorem State.timerTick_stk (s : State) : s.timerTick.stk = s.stk := rfl
@[simp] theorem State.timerTick_dt (s : State) : s.timerTick.dt = tickByte s.dt := rfl
@[simp] theorem State.timerTick_st (s : State) : s.timerTick.st = tickByte s.st := rfl
@[simp] theorem State.timerTick_fb (s : State) : s.timerTick.fb = s.fb := rfl
@[simp] theorem State.timerTick_key (s : State) : s.timerTick.key = s.key := rfl
@[simp] theorem State.timerTick_wait (s : State) : s.timerTick.wait = s.wait := rfl
@[simp] theorem State.timerTick_redraw (s : State) : s.timerTick.redraw = s.redraw := rfl
@[simp] theorem State.timerTick_fault (s : State) : s.timerTick.fault = s.fault := rfl
@[simp] theorem State.timerTick_mem (s : State) : s.timerTick.mem = s.mem := rfl
@[simp] theorem State.timerTick_rndIn (s : State) : s.timerTick.rndIn = s.rndIn := rfl
@[simp] theorem State.timerTick_draws (s : State) : s.timerTick.draws = s.draws := rfl
@[simp] theorem State.timerTick_getV (s : State) (r : RegIdx) : s.timerTick.getV r = s.getV r := rfl

/-! `State.drawn` -/

@[simp] theorem State.drawn_v (s : State) : s.drawn.v = s.v := rfl
@[simp] theorem State.drawn_i (s : State) : s.drawn.i = s.i := rfl
@[simp] theorem State.drawn_pc (s : State) : s.drawn.pc = s.pc := rfl
@[simp] theorem State.drawn_sp (s : State) : s.drawn.sp = s.sp := rfl
@[simp] theorem State.drawn_stk (s : State) : s.drawn.stk = s.stk := rfl
@[simp] theorem State.drawn_dt (s : State) : s.drawn.dt = s.dt := rfl
@[simp] theorem State.drawn_st (s : State) : s.drawn.st = s.st := rfl
@[simp] theorem State.drawn_fb (s : State) : s.drawn.fb = s.fb := rfl
@[simp] theorem State.drawn_key (s : State) : s.drawn.key = s.key := rfl
@[simp] theorem State.drawn_wait (s : State) : s.drawn.wait = s.wait := rfl
@[simp] theorem State.drawn_redraw (s : State) : s.drawn.redraw = s.redraw := rfl
@[simp] theorem State.drawn_fault (s : State) : s.drawn.fault = s.fault := rfl
@[simp] theorem State.drawn_mem (s : State) : s.drawn.mem = s.mem := rfl
@[simp] theorem State.drawn_rndIn (s : State) : s.drawn.rndIn = none := rfl
@[simp] theorem State.drawn_draws (s : State) : s.drawn.draws = s.draws + 1 := rfl
@[simp] theorem State.drawn_getV (s : State) (r : RegIdx) : s.drawn.getV r = s.getV r := rfl

/-! `State.setResultAndFlag` -/

@[simp] theorem State.setResultAndFlag_i (s : State) (x : RegIdx) (b : Byte) (c : Bool) : (s.setResultAndFlag x b c).i = s.i := rfl
@[simp] theorem State.setResultAndFlag_pc (s : State) (x : RegIdx) (b : Byte) (c : Bool) : (s.setResultAndFlag x b c).pc = s.pc := rfl
@[simp] theorem State.setResultAndFlag_sp (s : State) (x : RegIdx) (b : Byte) (c : Bool) : (s.setResultAndFlag x b c).sp = s.sp := rfl
@[simp] theorem State.setResultAndFlag_stk (s : State) (x : RegIdx) (b : Byte) (c : Bool) : (s.setResultAndFlag x b c).stk = s.stk := rfl
@[simp] theorem State.setResultAndFlag_dt (s : State) (x : RegIdx) (b : Byte) (c : Bool) : (s.setResultAndFlag x b c).dt = s.dt := rfl
@[simp] theorem State.setResultAndFlag_st (s : State) (x : RegIdx) (b : Byte) (c : Bool) : (s.setResultAndFlag x b c).st = s.st := rfl
@[simp] theorem State.setResultAndFlag_fb (s : State) (x : RegIdx) (b : Byte) (c : Bool) : (s.setResultAndFlag x b c).fb = s.fb := rfl
@[simp] theorem State.setResultAndFlag_key (s : State) (x : RegIdx) (b : Byte) (c : Bool) : (s.setResultAndFlag x b c).key = s.key := rfl
@[simp] theorem State.setResultAndFlag_wait (s : State) (x : RegIdx) (b : Byte) (c : Bool) : (s.setResultAndFlag x b c).wait = s.wait := rfl
@[simp] theorem State.setResultAndFlag_redraw (s : State) (x : RegIdx) (b : Byte) (c : Bool) : (s.setResultAndFlag x b c).redraw = s.redraw := rfl
@[simp] theorem State.setResultAndFlag_fault (s : State) (x : RegIdx) (b : Byte) (c : Bool) : (s.setResultAndFlag x b c).fault = s.fault := rfl
@[simp] theorem State.setResultAndFlag_mem (s : State) (x : RegIdx) (b : Byte) (c : Bool) : (s.setResultAndFlag x b c).mem = s.mem := rfl
@[simp] theorem State.setResultAndFlag_rndIn (s : State) (x : RegIdx) (b : Byte) (c : Bool) : (s.setResultAndFlag x b c).rndIn = s.rndIn := rfl
@[simp] theorem State.setResultAndFlag_draws (s : State) (x : RegIdx) (b : Byte) (c : Bool) : (s.setResultAndFlag x b c).draws = s.draws := rfl

/-! ### The registers after a write -/

theorem State.getV_eq_of_v {s t : State} (h : s.v = t.v) (r : RegIdx) : s.getV r = t.getV r := by
  unfold State.getV; rw [h]

/-- A register reads as what was last written to it. -/
@[simp] theorem State.setV_getV (s : State) (x : RegIdx) (b : Byte) (r : RegIdx) :
    (s.setV x b).getV r = if r = x then b else s.getV r := by
  unfold State.getV State.setV
  rw [Vector.getElem_set]
  by_cases h : r = x
  · simp [h]
  · have : x.toNat ≠ r.toNat := fun e => h (BitVec.eq_of_toNat_eq e.symm)
    simp [h, this]

/-- The flag is written last (rule R123). -/
@[simp] theorem State.setResultAndFlag_getV (s : State) (x : RegIdx) (b : Byte) (c : Bool) (r : RegIdx) :
    (s.setResultAndFlag x b c).getV r = if r = flagReg then flagByte c else if r = x then b else s.getV r := by
  simp [State.setResultAndFlag]

theorem State.setRegs_getV (s : State) (w : Regs) (r : RegIdx) :
    (s.setRegs w).getV r = w[r.toNat]'(show r.toNat < 16 from r.isLt) := rfl

/-- Two states with the same registers are the same register file. -/
theorem Regs.ext_getV {s t : State} (h : ∀ r, s.getV r = t.getV r) : s.v = t.v := by
  apply Vector.ext
  intro k hk
  have := h (BitVec.ofNat 4 k)
  unfold State.getV at this
  have e : (BitVec.ofNat 4 k).toNat = k := by simp; omega
  simpa [e] using this

/-! ### The fetch after an update -/

/-- The fetch reads `PC` and memory only. -/
theorem State.fetch_congr {s t : State} (hp : s.pc = t.pc) (hm : s.mem = t.mem) : s.fetch = t.fetch := by
  unfold State.fetch; rw [hp, hm]

end Sys2Proof.Machine
end

