-- ==== Sys2Proof/Laws/Ops.lean ====
section
/-! SUPPORT. For each shared operation, once, everything it can do; provers cite these and do not unfold the operations. -/

namespace Sys2Proof.Machine

/-! ### Range check and fault -/

theorem inRange_iff {base count : Nat} : inRange base count = true ↔ count = 0 ∨ base + count ≤ 0x1000 := by
  simp [inRange, Config.memSize]

theorem raise_eq (c : FaultCode) (s : State) : raise c s = .next (s.setFault c) := rfl

/-- A guarded instruction completes when its addresses exist, and raises `ADDRESS_RANGE` otherwise. -/
theorem accessing_of_inRange {base count : Nat} (h : inRange base count = true) (s t : State) :
    accessing base count s t = .next t := by simp [accessing, h]

theorem accessing_of_not_inRange {base count : Nat} (h : inRange base count = false) (s t : State) :
    accessing base count s t = .next (s.setFault .addressRange) := by simp [accessing, h, raise]

theorem accessing_cases {base count : Nat} {s t u : State} (h : accessing base count s t = .next u) :
    (inRange base count = true ∧ u = t) ∨ (inRange base count = false ∧ u = s.setFault .addressRange) := by
  cases e : inRange base count with
  | true => rw [accessing_of_inRange e] at h; injection h with h; exact .inl ⟨rfl, h.symm⟩
  | false => rw [accessing_of_not_inRange e] at h; injection h with h; exact .inr ⟨rfl, h.symm⟩

/-! ### Fetch -/

theorem State.fetch_eq_none {s : State} : s.fetch = none ↔ 0xFFE < s.pc.toNat := by
  have h : inRange s.pc.toNat 2 = true ↔ s.pc.toNat ≤ 0xFFE := by rw [inRange_iff]; omega
  unfold State.fetch
  split
  · next e => simp only [reduceCtorEq, false_iff]; have := h.1 e; omega
  · next e => simp only [true_iff]; have := mt h.2 e; omega

theorem State.fetch_eq_some {s : State} {w : Word} :
    s.fetch = some w ↔ s.pc.toNat ≤ 0xFFE ∧ w = wordOfBytes (s.mem.read s.pc.toNat) (s.mem.read (s.pc.toNat + 1)) := by
  have h : inRange s.pc.toNat 2 = true ↔ s.pc.toNat ≤ 0xFFE := by rw [inRange_iff]; omega
  unfold State.fetch
  split
  · next e => simp only [Option.some.injEq]; exact ⟨fun q => ⟨h.1 e, q.symm⟩, fun q => q.2.symm⟩
  · next e => simp only [reduceCtorEq, false_iff]; exact fun q => e (h.2 q.1)

/-! ### Stack -/

theorem State.push_eq_none {s : State} {w : Word} : s.push w = none ↔ s.sp.val = 16 := by
  unfold State.push
  split <;> simp <;> omega

/-- A push fills the next free entry and leaves the others, and everything else, alone. -/
theorem State.push_eq_some {s t : State} {w : Word} (h : s.push w = some t) :
    ∃ (hs : s.sp.val < 16) (hn : s.sp.val + 1 < 17),
      t = (s.setStk (s.stk.set s.sp.val w hs)).setSp ⟨s.sp.val + 1, hn⟩ := by
  unfold State.push at h
  split at h
  · next hs => injection h with h; exact ⟨hs, by omega, h.symm⟩
  · cases h

theorem State.pop_eq_none {s : State} : s.pop = none ↔ s.sp.val = 0 := by
  unfold State.pop
  split
  · next h => simp [h]
  · next h => simp [h]

/-- A pop gives the top entry and lowers `SP`; the entry stays. -/
theorem State.pop_eq_some {s t : State} {w : Word} (h : s.pop = some (w, t)) :
    ∃ (_ : 0 < s.sp.val) (hk : s.sp.val - 1 < 16) (hn : s.sp.val - 1 < 17),
      w = s.stk[s.sp.val - 1] ∧ t = s.setSp ⟨s.sp.val - 1, hn⟩ := by
  unfold State.pop at h
  split at h
  · cases h
  · next hp =>
    simp only [Option.some.injEq, Prod.mk.injEq] at h
    exact ⟨by omega, by omega, by omega, h.1.symm, h.2.symm⟩

/-! ### Keys, timers, digits, blocks -/

theorem State.keyLatch_of_le {s : State} {k : Byte} (h : k.toNat < 16) : s.keyLatch k = some s.key[k.toNat] := by
  simp [State.keyLatch, h]

theorem State.keyLatch_of_gt {s : State} {k : Byte} (h : ¬ k.toNat < 16) : s.keyLatch k = none := by
  simp [State.keyLatch]; omega

/-- A tick lowers a timer by one and never below 0. -/
theorem tickByte_toNat (b : Byte) : (tickByte b).toNat = b.toNat - 1 := by
  unfold tickByte
  split
  · next h => subst h; rfl
  · next h =>
    have hb : b.toNat ≠ 0 := fun e => h (BitVec.eq_of_toNat_eq (by simpa using e))
    rw [BitVec.toNat_sub]
    have : b.toNat < 256 := b.isLt
    have h1 : (1 : Byte).toNat = 1 := rfl
    rw [h1]
    omega

theorem bcdDigits_length (b : Byte) : (bcdDigits b).length = 3 := rfl

theorem State.blockBytes_length (s : State) (x : RegIdx) : (s.blockBytes x).length = x.toNat + 1 := by
  have : x.toNat < 16 := x.isLt
  simp [State.blockBytes, blockCount]; omega

theorem State.blockBytes_getElem (s : State) (x : RegIdx) {k : Nat} (hk : k < (s.blockBytes x).length) :
    (s.blockBytes x)[k] = s.getV (BitVec.ofNat 4 k) := by
  have h1 := s.blockBytes_length x
  have hx : x.toNat < 16 := x.isLt
  have e : (BitVec.ofNat 4 k).toNat = k := by simp; omega
  simp [State.blockBytes, State.getV, e]

/-! ### Screen -/

theorem Screen.pixel_blank (r : Fin 32) (c : Fin 64) : Screen.blank.pixel r c = false := by
  simp [Screen.blank, Screen.pixel]

/-- Two screens with the same pixels are the same screen. -/
theorem Screen.ext {f g : Screen} (h : ∀ r c, f.pixel r c = g.pixel r c) : f = g := by
  apply Vector.ext
  intro r hr
  apply Vector.ext
  intro c hc
  exact h ⟨r, hr⟩ ⟨c, hc⟩

theorem Screen.pixel_flip (f : Screen) (r r' : Fin 32) (c c' : Fin 64) :
    (f.flip r c).pixel r' c' = if r' = r ∧ c' = c then !f.pixel r c else f.pixel r' c' := by
  unfold Screen.flip Screen.pixel
  simp only [Fin.getElem_fin, Vector.getElem_set]
  by_cases hr : r' = r
  · subst hr
    by_cases hc : c' = c
    · subst hc; simp
    · have : ¬ (c : Nat) = c' := fun e => hc (Fin.ext e.symm)
      simp [hc, this]
  · have : ¬ (r : Nat) = r' := fun e => hr (Fin.ext e.symm)
    simp [hr, this]

/-- Different sprite columns land on different screen columns (8 < 64). -/
theorem spriteCol_inj {x0 : Byte} {a b : Nat} (ha : a < 64) (hb : b < 64) (h : spriteCol x0 a = spriteCol x0 b) : a = b := by
  have := congrArg Fin.val h
  simp only [spriteCol, Fin.val_ofNat] at this
  omega

/-- Different sprite rows land on different screen rows (15 < 32). -/
theorem spriteRow_inj {y0 : Byte} {a b : Nat} (ha : a < 32) (hb : b < 32) (h : spriteRow y0 a = spriteRow y0 b) : a = b := by
  have := congrArg Fin.val h
  simp only [spriteRow, Fin.val_ofNat] at this
  omega

/-- One sprite row flips exactly the cells under its 1 bits. -/
theorem Canvas.plotRow_pixel (x0 : Byte) (row : Fin 32) (b : Byte) (p : Canvas) (r : Fin 32) (c : Fin 64) :
    ∀ n, n ≤ 64 → ((Canvas.plotRow x0 row b n p).1.pixel r c = true ↔
      (p.1.pixel r c = true ↔ ¬ (r = row ∧ ∃ dc, dc < n ∧ spriteCol x0 dc = c ∧ b.getLsbD (7 - dc) = true)))
  | 0, _ => by simp [Canvas.plotRow]
  | n + 1, hn => by
    have ih := Canvas.plotRow_pixel x0 row b p r c n (by omega)
    simp only [Canvas.plotRow]
    by_cases hit : b.getLsbD (7 - n) = true ∧ r = row ∧ c = spriteCol x0 n
    · obtain ⟨hb, rfl, rfl⟩ := hit
      rw [if_pos hb]
      have none_before : ¬ ∃ dc, dc < n ∧ spriteCol x0 dc = spriteCol x0 n ∧ b.getLsbD (7 - dc) = true := by
        rintro ⟨dc, hdc, e, _⟩
        have := spriteCol_inj (by omega) (by omega) e
        omega
      have some_now : ∃ dc, dc < n + 1 ∧ spriteCol x0 dc = spriteCol x0 n ∧ b.getLsbD (7 - dc) = true :=
        ⟨n, by omega, rfl, hb⟩
      simp only [Canvas.plot, Screen.pixel_flip, and_self, if_true]
      simp only [none_before, and_false, not_false_eq_true, iff_true] at ih
      simp only [some_now, and_true, not_true_eq_false, iff_false]
      rw [← ih]; cases Screen.pixel _ _ _ <;> simp
    · have same : (r = row ∧ ∃ dc, dc < n + 1 ∧ spriteCol x0 dc = c ∧ b.getLsbD (7 - dc) = true) ↔
          (r = row ∧ ∃ dc, dc < n ∧ spriteCol x0 dc = c ∧ b.getLsbD (7 - dc) = true) := by
        refine and_congr_right fun hr => ⟨?_, ?_⟩
        · rintro ⟨dc, hdc, e, hb⟩
          refine ⟨dc, ?_, e, hb⟩
          rcases Nat.lt_succ_iff_lt_or_eq.1 hdc with h | h
          · exact h
          · subst h; exact absurd ⟨hb, hr, e.symm⟩ hit
        · rintro ⟨dc, hdc, e, hb⟩; exact ⟨dc, by omega, e, hb⟩
      rw [same, ← ih]
      split
      · next hb =>
        have : ¬ (r = row ∧ c = spriteCol x0 n) := fun h => hit ⟨hb, h⟩
        simp only [Canvas.plot, Screen.pixel_flip, this, if_false]
      · rfl

/-- One sprite row is a hit exactly when one of its 1 bits lands on a cell that was set. -/
theorem Canvas.plotRow_hit (x0 : Byte) (row : Fin 32) (b : Byte) (p : Canvas) :
    ∀ n, n ≤ 64 → ((Canvas.plotRow x0 row b n p).2 = true ↔
      (p.2 = true ∨ ∃ dc, dc < n ∧ b.getLsbD (7 - dc) = true ∧ p.1.pixel row (spriteCol x0 dc) = true))
  | 0, _ => by simp [Canvas.plotRow]
  | n + 1, hn => by
    have ih := Canvas.plotRow_hit x0 row b p n (by omega)
    have px := Canvas.plotRow_pixel x0 row b p row (spriteCol x0 n) n (by omega)
    have none_before : ¬ ∃ dc, dc < n ∧ spriteCol x0 dc = spriteCol x0 n ∧ b.getLsbD (7 - dc) = true := by
      rintro ⟨dc, hdc, e, _⟩
      have := spriteCol_inj (by omega) (by omega) e
      omega
    simp only [none_before, and_false, not_false_eq_true, iff_true] at px
    have split_last : (∃ dc, dc < n + 1 ∧ b.getLsbD (7 - dc) = true ∧ p.1.pixel row (spriteCol x0 dc) = true) ↔
        ((∃ dc, dc < n ∧ b.getLsbD (7 - dc) = true ∧ p.1.pixel row (spriteCol x0 dc) = true) ∨
          (b.getLsbD (7 - n) = true ∧ p.1.pixel row (spriteCol x0 n) = true)) := by
      constructor
      · rintro ⟨dc, hdc, hb, hp⟩
        rcases Nat.lt_succ_iff_lt_or_eq.1 hdc with h | h
        · exact .inl ⟨dc, h, hb, hp⟩
        · subst h; exact .inr ⟨hb, hp⟩
      · rintro (⟨dc, hdc, hb, hp⟩ | ⟨hb, hp⟩)
        · exact ⟨dc, by omega, hb, hp⟩
        · exact ⟨n, by omega, hb, hp⟩
    rw [split_last, ← or_assoc, ← ih]
    simp only [Canvas.plotRow]
    by_cases hb : b.getLsbD (7 - n) = true
    · rw [if_pos hb]
      simp only [Canvas.plot, Bool.or_eq_true, hb, true_and, px]
    · rw [if_neg hb]
      simp [hb]

end Sys2Proof.Machine
end

