-- ==== Sys2Proof/Laws/Cycle.lean ====
section
/-! SUPPORT. Everything one step can do, once: invariants are derived from these and do not unfold the cycle. -/

namespace Sys2Proof.Machine

@[simp] theorem step_eq_cycle (s : State) : step s = cycle s := rfl

/-- A step of a core with a latched fault (rule R172). -/
theorem cycle_faulted {s : State} (h : s.fault ≠ .none) : cycle s = .next s := by simp [cycle, h]

/-- A step in a key wait (rule R157). -/
theorem cycle_waiting {s : State} (h : s.fault = .none) {r : RegIdx} (hw : s.wait = .awaitingKey r) :
    cycle s = .next s.timerTick := by simp [cycle, h, hw]

/-- A step whose fetch is out of range (rule R70). -/
theorem cycle_no_fetch {s : State} (h : s.fault = .none) (hw : s.wait = .running) (hf : s.fetch = none) :
    cycle s = .next (s.setFault .addressRange) := by simp [cycle, h, hw, hf, raise]

/-- A step that runs an instruction (rule R80). -/
theorem cycle_runs {s : State} (h : s.fault = .none) (hw : s.wait = .running) {w : Word} (hf : s.fetch = some w) :
    cycle s = runInstr (decode w) s := by simp [cycle, h, hw, hf]

/-- What runs after the executor's next state is the tick, unless it raised a fault. -/
theorem runInstr_next {i : Instr} {s t : State} : runInstr i s = .next t ↔ ∃ u, exec i s = .next u ∧ t = u.settle := by
  unfold runInstr
  cases exec i s <;> simp [eq_comm]

/-- The four ways a step answers a next state, in the order of the tests of rule R182. -/
theorem cycle_cases {s t : State} (h : cycle s = .next t) :
    (s.fault ≠ .none ∧ t = s) ∨
    (s.fault = .none ∧ (∃ r, s.wait = .awaitingKey r) ∧ t = s.timerTick) ∨
    (s.fault = .none ∧ s.wait = .running ∧ s.fetch = none ∧ t = s.setFault .addressRange) ∨
    (s.fault = .none ∧ s.wait = .running ∧ ∃ w u, s.fetch = some w ∧ exec (decode w) s = .next u ∧ t = u.settle) := by
  by_cases hf : s.fault = .none
  · cases hw : s.wait with
    | awaitingKey r =>
      rw [cycle_waiting hf hw] at h; injection h with h
      exact .inr (.inl ⟨hf, ⟨r, rfl⟩, h.symm⟩)
    | running =>
      cases hx : s.fetch with
      | none =>
        rw [cycle_no_fetch hf hw hx] at h; injection h with h
        exact .inr (.inr (.inl ⟨hf, rfl, rfl, h.symm⟩))
      | some w =>
        rw [cycle_runs hf hw hx, runInstr_next] at h
        obtain ⟨u, hu, ht⟩ := h
        exact .inr (.inr (.inr ⟨hf, rfl, w, u, rfl, hu, ht⟩))
  · rw [cycle_faulted hf] at h; injection h with h
    exact .inl ⟨hf, h.symm⟩

theorem State.settle_of_fault_none {u : State} (h : u.fault = .none) : u.settle = u.timerTick := by simp [State.settle, h]

theorem State.settle_of_fault {u : State} (h : u.fault ≠ .none) : u.settle = u := by simp [State.settle, h]

@[simp] theorem State.settle_fault (u : State) : u.settle.fault = u.fault := by unfold State.settle; split <;> simp

@[simp] theorem State.settle_pc (u : State) : u.settle.pc = u.pc := by unfold State.settle; split <;> simp

@[simp] theorem State.settle_mem (u : State) : u.settle.mem = u.mem := by unfold State.settle; split <;> simp

@[simp] theorem State.settle_wait (u : State) : u.settle.wait = u.wait := by unfold State.settle; split <;> simp

@[simp] theorem State.settle_sp (u : State) : u.settle.sp = u.sp := by unfold State.settle; split <;> simp

@[simp] theorem State.settle_stk (u : State) : u.settle.stk = u.stk := by unfold State.settle; split <;> simp

@[simp] theorem State.settle_v (u : State) : u.settle.v = u.v := by unfold State.settle; split <;> simp

@[simp] theorem State.settle_getV (u : State) (r : RegIdx) : u.settle.getV r = u.getV r := by
  unfold State.settle; split <;> simp

/-- The fields of a state in which a word has been placed for the next step. -/
theorem State.placeWord_fetch {s : State} (hm : s.mem.wf = true) (w : Word) : (s.placeWord w).fetch = some w := by
  have hpc : ∀ pc : Word, inRange pc.toNat 2 = true →
      Memory.wf (s.mem.write pc.toNat (highByte w)) = true := fun pc h =>
    Memory.wf_write hm (by rw [inRange_iff] at h; omega) _
  unfold State.placeWord
  have key : ∀ pc : Word, inRange pc.toNat 2 = true →
      ((((s.setPc pc).setMem ((s.mem.write pc.toNat (highByte w)).write (pc.toNat + 1) (lowByte w))).setFault .none).setWait
        .running).fetch = some w := by
    intro pc h
    rw [State.fetch_eq_some]
    refine ⟨by rw [inRange_iff] at h; simp; omega, ?_⟩
    simp only [State.setWait_mem, State.setFault_mem, State.setMem_mem, State.setWait_pc, State.setFault_pc, State.setMem_pc,
      State.setPc_pc]
    rw [Memory.read_write_other (by omega), Memory.read_write_same hm, Memory.read_write_same (hpc pc h), wordOfBytes_bytes]
  dsimp only
  split
  · next h => exact key _ h
  · exact key _ (by decide)

end Sys2Proof.Machine
end

