-- ==== Sys2Proof/Laws/Display.lean ====
section
/-! SUPPORT. What drawing a whole sprite does to the screen and to the collision flag, against the sprite as a picture. -/

namespace Sys2Proof.Machine

theorem spriteRow_eq_iff {y0 : Byte} {k : Nat} {r : Fin 32} : spriteRow y0 k = r ↔ (y0.toNat + k) % 32 = r.val := by
  rw [Fin.ext_iff]; simp [spriteRow]

theorem spriteCol_eq_iff {x0 : Byte} {k : Nat} {c : Fin 64} : spriteCol x0 k = c ↔ (x0.toNat + k) % 64 = c.val := by
  rw [Fin.ext_iff]; simp [spriteCol]

/-- One row of the sprite covers a cell. -/
def RowCovers (m : Memory) (base : Nat) (x0 y0 : Byte) (dr : Nat) (r : Fin 32) (c : Fin 64) : Prop :=
  r = spriteRow y0 dr ∧ ∃ dc, dc < 8 ∧ spriteCol x0 dc = c ∧ (m.read (base + dr)).getLsbD (7 - dc) = true

theorem spriteCovers_iff_rows {m : Memory} {base n : Nat} {x0 y0 : Byte} {r : Fin 32} {c : Fin 64} :
    SpriteCovers m base n x0 y0 r c ↔ ∃ dr, dr < n ∧ RowCovers m base x0 y0 dr r c := by
  simp only [SpriteCovers, RowCovers, @eq_comm _ r, spriteRow_eq_iff, spriteCol_eq_iff]
  constructor
  · rintro ⟨dr, dc, h1, h2, h3, h4, h5⟩; exact ⟨dr, h1, h3, dc, h2, h4, h5⟩
  · rintro ⟨dr, h1, h3, dc, h2, h4, h5⟩; exact ⟨dr, dc, h1, h2, h3, h4, h5⟩

/-- A cell is covered by the first `n + 1` rows when it is by the first `n` or by the last one, and never by both. -/
theorem spriteCovers_succ {m : Memory} {base n : Nat} {x0 y0 : Byte} {r : Fin 32} {c : Fin 64} :
    SpriteCovers m base (n + 1) x0 y0 r c ↔ SpriteCovers m base n x0 y0 r c ∨ RowCovers m base x0 y0 n r c := by
  simp only [spriteCovers_iff_rows]
  constructor
  · rintro ⟨dr, h, hc⟩
    rcases Nat.lt_succ_iff_lt_or_eq.1 h with h | rfl
    · exact .inl ⟨dr, h, hc⟩
    · exact .inr hc
  · rintro (⟨dr, h, hc⟩ | hc)
    · exact ⟨dr, by omega, hc⟩
    · exact ⟨n, by omega, hc⟩

theorem not_covers_twice {m : Memory} {base n : Nat} {x0 y0 : Byte} {r : Fin 32} {c : Fin 64} (hn : n < 32)
    (h : RowCovers m base x0 y0 n r c) : ¬ SpriteCovers m base n x0 y0 r c := by
  rw [spriteCovers_iff_rows]
  rintro ⟨dr, hdr, hc⟩
  have := spriteRow_inj (by omega) (by omega) (h.1.symm.trans hc.1)
  omega

/-- A sprite flips exactly the cells it covers. -/
theorem Canvas.plotSprite_pixel (m : Memory) (base : Nat) (x0 y0 : Byte) (p : Canvas) (r : Fin 32) (c : Fin 64) :
    ∀ n, n ≤ 32 → ((Canvas.plotSprite m base x0 y0 n p).1.pixel r c = true ↔
      (p.1.pixel r c = true ↔ ¬ SpriteCovers m base n x0 y0 r c))
  | 0, _ => by simp [Canvas.plotSprite, spriteCovers_iff_rows]
  | n + 1, hn => by
    have ih := Canvas.plotSprite_pixel m base x0 y0 p r c n (by omega)
    have row := Canvas.plotRow_pixel x0 (spriteRow y0 n) (m.read (base + n)) (Canvas.plotSprite m base x0 y0 n p) r c 8
      (by omega)
    have apart : RowCovers m base x0 y0 n r c → ¬ SpriteCovers m base n x0 y0 r c := not_covers_twice (by omega)
    simp only [Canvas.plotSprite]
    rw [row, ih, spriteCovers_succ]
    change ((_ ↔ ¬ SpriteCovers m base n x0 y0 r c) ↔ ¬ RowCovers m base x0 y0 n r c) ↔ _
    by_cases covered : SpriteCovers m base n x0 y0 r c
    · simp [covered, show ¬ RowCovers m base x0 y0 n r c from fun h => apart h covered]
    · by_cases last : RowCovers m base x0 y0 n r c <;> simp [covered, last]

/-- A sprite collides exactly when it covers a cell that was set. -/
theorem Canvas.plotSprite_hit (m : Memory) (base : Nat) (x0 y0 : Byte) (p : Canvas) :
    ∀ n, n ≤ 32 → ((Canvas.plotSprite m base x0 y0 n p).2 = true ↔
      (p.2 = true ∨ ∃ r c, SpriteCovers m base n x0 y0 r c ∧ p.1.pixel r c = true))
  | 0, _ => by simp [Canvas.plotSprite, spriteCovers_iff_rows]
  | n + 1, hn => by
    have ih := Canvas.plotSprite_hit m base x0 y0 p n (by omega)
    have row := Canvas.plotRow_hit x0 (spriteRow y0 n) (m.read (base + n)) (Canvas.plotSprite m base x0 y0 n p) 8 (by omega)
    simp only [Canvas.plotSprite]
    rw [row, ih, or_assoc]
    refine or_congr_right ⟨?_, ?_⟩
    · rintro (⟨r, c, hc, hp⟩ | ⟨dc, hdc, hb, hp⟩)
      · exact ⟨r, c, spriteCovers_succ.2 (.inl hc), hp⟩
      · have hrow : RowCovers m base x0 y0 n (spriteRow y0 n) (spriteCol x0 dc) := ⟨rfl, dc, hdc, rfl, hb⟩
        have px := (Canvas.plotSprite_pixel m base x0 y0 p _ _ n (by omega)).1 hp
        exact ⟨_, _, spriteCovers_succ.2 (.inr hrow), px.2 (not_covers_twice (by omega) hrow)⟩
    · rintro ⟨r, c, hc, hp⟩
      rcases spriteCovers_succ.1 hc with h | h
      · exact .inl ⟨r, c, h, hp⟩
      · have hrow := h
        obtain ⟨rfl, dc, hdc, rfl, hb⟩ := h
        exact .inr ⟨dc, hdc, hb, (Canvas.plotSprite_pixel m base x0 y0 p _ _ n (by omega)).2
          ⟨fun _ => not_covers_twice (by omega) hrow, fun _ => hp⟩⟩

end Sys2Proof.Machine
end

