-- ==== Sys2Proof/Laws/Exec.lean ====
section
/-! SUPPORT. The executor arm by arm, and, once for each instruction with a fault, everything it can do. -/

namespace Sys2Proof.Machine

/-! ### The arms -/

@[simp] theorem exec_cls (s : State) : exec .cls s = execCls s := rfl
@[simp] theorem exec_ret (s : State) : exec .ret s = execRet s := rfl
@[simp] theorem exec_jp (nnn : Imm12) (s : State) : exec (.jp nnn) s = execJp nnn s := rfl
@[simp] theorem exec_call (nnn : Imm12) (s : State) : exec (.call nnn) s = execCall nnn s := rfl
@[simp] theorem exec_seByte (x : RegIdx) (nn : Byte) (s : State) : exec (.seByte x nn) s = execSeByte x nn s := rfl
@[simp] theorem exec_sneByte (x : RegIdx) (nn : Byte) (s : State) : exec (.sneByte x nn) s = execSneByte x nn s := rfl
@[simp] theorem exec_seReg (x y : RegIdx) (s : State) : exec (.seReg x y) s = execSeReg x y s := rfl
@[simp] theorem exec_ldByte (x : RegIdx) (nn : Byte) (s : State) : exec (.ldByte x nn) s = execLdByte x nn s := rfl
@[simp] theorem exec_addByte (x : RegIdx) (nn : Byte) (s : State) : exec (.addByte x nn) s = execAddByte x nn s := rfl
@[simp] theorem exec_ldReg (x y : RegIdx) (s : State) : exec (.ldReg x y) s = execLdReg x y s := rfl
@[simp] theorem exec_orReg (x y : RegIdx) (s : State) : exec (.orReg x y) s = execOrReg x y s := rfl
@[simp] theorem exec_andReg (x y : RegIdx) (s : State) : exec (.andReg x y) s = execAndReg x y s := rfl
@[simp] theorem exec_xorReg (x y : RegIdx) (s : State) : exec (.xorReg x y) s = execXorReg x y s := rfl
@[simp] theorem exec_addReg (x y : RegIdx) (s : State) : exec (.addReg x y) s = execAddReg x y s := rfl
@[simp] theorem exec_subReg (x y : RegIdx) (s : State) : exec (.subReg x y) s = execSubReg x y s := rfl
@[simp] theorem exec_shrReg (x y : RegIdx) (s : State) : exec (.shrReg x y) s = execShrReg x y s := rfl
@[simp] theorem exec_subnReg (x y : RegIdx) (s : State) : exec (.subnReg x y) s = execSubnReg x y s := rfl
@[simp] theorem exec_shlReg (x y : RegIdx) (s : State) : exec (.shlReg x y) s = execShlReg x y s := rfl
@[simp] theorem exec_sneReg (x y : RegIdx) (s : State) : exec (.sneReg x y) s = execSneReg x y s := rfl
@[simp] theorem exec_ldI (nnn : Imm12) (s : State) : exec (.ldI nnn) s = execLdI nnn s := rfl
@[simp] theorem exec_jpV0 (nnn : Imm12) (s : State) : exec (.jpV0 nnn) s = execJpV0 nnn s := rfl
@[simp] theorem exec_rnd (x : RegIdx) (nn : Byte) (s : State) : exec (.rnd x nn) s = execRnd x nn s := rfl
@[simp] theorem exec_drw (x y : RegIdx) (n : Nibble) (s : State) : exec (.drw x y n) s = execDrw x y n s := rfl
@[simp] theorem exec_skp (x : RegIdx) (s : State) : exec (.skp x) s = execSkp x s := rfl
@[simp] theorem exec_sknp (x : RegIdx) (s : State) : exec (.sknp x) s = execSknp x s := rfl
@[simp] theorem exec_ldVxDT (x : RegIdx) (s : State) : exec (.ldVxDT x) s = execLdVxDT x s := rfl
@[simp] theorem exec_ldVxK (x : RegIdx) (s : State) : exec (.ldVxK x) s = execLdVxK x s := rfl
@[simp] theorem exec_ldDTVx (x : RegIdx) (s : State) : exec (.ldDTVx x) s = execLdDTVx x s := rfl
@[simp] theorem exec_ldSTVx (x : RegIdx) (s : State) : exec (.ldSTVx x) s = execLdSTVx x s := rfl
@[simp] theorem exec_addI (x : RegIdx) (s : State) : exec (.addI x) s = execAddI x s := rfl
@[simp] theorem exec_ldF (x : RegIdx) (s : State) : exec (.ldF x) s = execLdF x s := rfl
@[simp] theorem exec_ldB (x : RegIdx) (s : State) : exec (.ldB x) s = execLdB x s := rfl
@[simp] theorem exec_storeRegs (x : RegIdx) (s : State) : exec (.storeRegs x) s = execStoreRegs x s := rfl
@[simp] theorem exec_loadRegs (x : RegIdx) (s : State) : exec (.loadRegs x) s = execLoadRegs x s := rfl
@[simp] theorem exec_unknown (word : Word) (s : State) : exec (.unknown word) s = execUnknown word s := rfl

/-! ### The instructions with a fault -/

/-- `RET`: a fault on the empty stack, otherwise a pop. -/
theorem execRet_cases {s t : State} (h : execRet s = .next t) :
    (s.sp.val = 0 ∧ t = s.setFault .stackUnderflow) ∨
    (∃ (_ : 0 < s.sp.val) (hk : s.sp.val - 1 < 16) (hn : s.sp.val - 1 < 17),
      t = (s.setSp ⟨s.sp.val - 1, hn⟩).setPc (s.stk[s.sp.val - 1] + 2)) := by
  unfold execRet at h
  split at h
  · next e => injection h with h; exact .inl ⟨State.pop_eq_none.1 e, h.symm⟩
  · next e =>
    injection h with h
    obtain ⟨hp, hk, hn, rfl, rfl⟩ := State.pop_eq_some e
    exact .inr ⟨hp, hk, hn, h.symm⟩

/-- `CALL NNN`: a fault on the full stack, otherwise a push of `PC`. -/
theorem execCall_cases {nnn : Imm12} {s t : State} (h : execCall nnn s = .next t) :
    (s.sp.val = 16 ∧ t = s.setFault .stackOverflow) ∨
    (∃ (hs : s.sp.val < 16) (hn : s.sp.val + 1 < 17),
      t = ((s.setStk (s.stk.set s.sp.val s.pc hs)).setSp ⟨s.sp.val + 1, hn⟩).setPc (immAddress nnn)) := by
  unfold execCall at h
  split at h
  · next e => injection h with h; exact .inl ⟨State.push_eq_none.1 e, h.symm⟩
  · next e =>
    injection h with h
    obtain ⟨hs, hn, rfl⟩ := State.push_eq_some e
    exact .inr ⟨hs, hn, h.symm⟩

/-- `SKP Vx`: a fault on an index above 0xF, otherwise a skip on the latch. -/
theorem execSkp_cases {x : RegIdx} {s t : State} (h : execSkp x s = .next t) :
    (¬ (s.getV x).toNat < 16 ∧ t = s.setFault .keyIndexRange) ∨
    (∃ hk : (s.getV x).toNat < 16, t = s.skipIf s.key[(s.getV x).toNat]) := by
  by_cases hk : (s.getV x).toNat < 16
  · simp only [execSkp, State.keyLatch_of_le hk] at h; injection h with h; exact .inr ⟨hk, h.symm⟩
  · simp only [execSkp, State.keyLatch_of_gt hk] at h; injection h with h; exact .inl ⟨hk, h.symm⟩

/-- `SKNP Vx`: a fault on an index above 0xF, otherwise a skip on the latch. -/
theorem execSknp_cases {x : RegIdx} {s t : State} (h : execSknp x s = .next t) :
    (¬ (s.getV x).toNat < 16 ∧ t = s.setFault .keyIndexRange) ∨
    (∃ hk : (s.getV x).toNat < 16, t = s.skipIf (!s.key[(s.getV x).toNat])) := by
  by_cases hk : (s.getV x).toNat < 16
  · simp only [execSknp, State.keyLatch_of_le hk] at h; injection h with h; exact .inr ⟨hk, h.symm⟩
  · simp only [execSknp, State.keyLatch_of_gt hk] at h; injection h with h; exact .inl ⟨hk, h.symm⟩

/-- `LD F, Vx`: a fault on a value above 0xF, otherwise the glyph's address. -/
theorem execLdF_cases {x : RegIdx} {s t : State} (h : execLdF x s = .next t) :
    (0xF < (s.getV x).toNat ∧ t = s.setFault .fontIndexRange) ∨
    ((s.getV x).toNat ≤ 0xF ∧ t = (s.setI (glyphAddress (s.getV x))).advance) := by
  unfold execLdF at h
  split at h
  · next e => injection h with h; exact .inl ⟨e, h.symm⟩
  · next e => injection h with h; exact .inr ⟨by omega, h.symm⟩

/-- `LD B, Vx`: a fault when a digit has no address, otherwise three bytes stored. -/
theorem execLdB_cases {x : RegIdx} {s t : State} (h : execLdB x s = .next t) :
    (0x1000 < s.base + 3 ∧ t = s.setFault .addressRange) ∨
    (s.base + 3 ≤ 0x1000 ∧ t = (s.setMem (s.mem.writeBlock s.base (bcdDigits (s.getV x)))).advance) := by
  rcases accessing_cases h with ⟨e, ht⟩ | ⟨e, ht⟩
  · exact .inr ⟨by rw [inRange_iff] at e; omega, ht⟩
  · exact .inl ⟨by have := mt inRange_iff.2 (Bool.eq_false_iff.1 e); omega, ht⟩

/-- `LD [I], Vx`: a fault when a byte has no address, otherwise `X + 1` bytes stored. -/
theorem execStoreRegs_cases {x : RegIdx} {s t : State} (h : execStoreRegs x s = .next t) :
    (0x1000 < s.base + (x.toNat + 1) ∧ t = s.setFault .addressRange) ∨
    (s.base + (x.toNat + 1) ≤ 0x1000 ∧ t = (s.setMem (s.mem.writeBlock s.base (s.blockBytes x))).advance) := by
  rcases accessing_cases h with ⟨e, ht⟩ | ⟨e, ht⟩
  · exact .inr ⟨by rw [inRange_iff] at e; unfold blockCount at e; omega, ht⟩
  · exact .inl ⟨by have := mt inRange_iff.2 (Bool.eq_false_iff.1 e); unfold blockCount at this; omega, ht⟩

/-- `LD Vx, [I]`: a fault when a byte has no address, otherwise `X + 1` registers loaded. -/
theorem execLoadRegs_cases {x : RegIdx} {s t : State} (h : execLoadRegs x s = .next t) :
    (0x1000 < s.base + (x.toNat + 1) ∧ t = s.setFault .addressRange) ∨
    (s.base + (x.toNat + 1) ≤ 0x1000 ∧ t = (s.setRegs (s.mem.loadBlock s.base s.v (x.toNat + 1))).advance) := by
  rcases accessing_cases h with ⟨e, ht⟩ | ⟨e, ht⟩
  · exact .inr ⟨by rw [inRange_iff] at e; unfold blockCount at e; omega, ht⟩
  · exact .inl ⟨by have := mt inRange_iff.2 (Bool.eq_false_iff.1 e); unfold blockCount at this; omega, ht⟩

/-- `DRW Vx, Vy, N`: a fault when a sprite byte has no address, otherwise the sprite drawn. -/
theorem execDrw_cases {x y : RegIdx} {n : Nibble} {s t : State} (h : execDrw x y n s = .next t) :
    (0 < n.toNat ∧ 0x1000 < s.base + n.toNat ∧ t = s.setFault .addressRange) ∨
    ((n.toNat = 0 ∨ s.base + n.toNat ≤ 0x1000) ∧
      t = (((s.setFb (Canvas.plotSprite s.mem s.base (s.getV x) (s.getV y) n.toNat (s.fb, false)).1).setV flagReg
        (flagByte (Canvas.plotSprite s.mem s.base (s.getV x) (s.getV y) n.toNat (s.fb, false)).2)).setRedraw true).advance) := by
  rcases accessing_cases h with ⟨e, ht⟩ | ⟨e, ht⟩
  · exact .inr ⟨inRange_iff.1 e, ht⟩
  · have := mt inRange_iff.2 (Bool.eq_false_iff.1 e)
    exact .inl ⟨by omega, by omega, ht⟩

end Sys2Proof.Machine
end

