-- ==== Sys2Proof/Laws/PerInstr.lean ====
section
/-! SUPPORT. Laws of the instructions as syntax, one lemma per constructor. -/

namespace Sys2Proof.Laws

/-! ### A masked word of each format -/

theorem nibble_and_ones (g : Nibble) : g &&& 15#4 = g := BitVec.and_allOnes

theorem byte_and_ones (b : Byte) : b &&& 255#8 = b := BitVec.and_allOnes

theorem formatA_mask (g : Nibble) (nnn : Imm12) : formatA g nnn &&& 0xF000 = g ++ (0 : Imm12) := by
  have h : (0xF000 : Word) = (0xF : Nibble) ++ (0 : Imm12) := rfl
  unfold formatA
  rw [h, BitVec.and_append]
  simp [nibble_and_ones]

theorem formatXB_mask (g : Nibble) (x : RegIdx) (nn : Byte) : formatXB g x nn &&& 0xF000 = g ++ (0 : RegIdx) ++ (0 : Byte) := by
  have h : (0xF000 : Word) = (0xF : Nibble) ++ (0 : RegIdx) ++ (0 : Byte) := rfl
  unfold formatXB
  rw [h, BitVec.and_append, BitVec.and_append]
  simp [nibble_and_ones]

theorem formatXB_maskByte (g : Nibble) (x : RegIdx) (nn : Byte) : formatXB g x nn &&& 0xF0FF = g ++ (0 : RegIdx) ++ nn := by
  have h : (0xF0FF : Word) = (0xF : Nibble) ++ (0 : RegIdx) ++ (0xFF : Byte) := rfl
  unfold formatXB
  rw [h, BitVec.and_append, BitVec.and_append]
  simp [nibble_and_ones, byte_and_ones]

theorem formatXYN_mask (g : Nibble) (x y : RegIdx) (n : Nibble) :
    formatXYN g x y n &&& 0xF000 = g ++ (0 : RegIdx) ++ (0 : RegIdx) ++ (0 : Nibble) := by
  have h : (0xF000 : Word) = (0xF : Nibble) ++ (0 : RegIdx) ++ (0 : RegIdx) ++ (0 : Nibble) := rfl
  unfold formatXYN
  rw [h, BitVec.and_append, BitVec.and_append, BitVec.and_append]
  simp [nibble_and_ones]

theorem formatXYN_maskNibble (g : Nibble) (x y : RegIdx) (n : Nibble) :
    formatXYN g x y n &&& 0xF00F = g ++ (0 : RegIdx) ++ (0 : RegIdx) ++ n := by
  have h : (0xF00F : Word) = (0xF : Nibble) ++ (0 : RegIdx) ++ (0 : RegIdx) ++ (0xF : Nibble) := rfl
  unfold formatXYN
  rw [h, BitVec.and_append, BitVec.and_append, BitVec.and_append]
  simp [nibble_and_ones]

/-- The canonical word of an instruction selects the row of the opcode map that its constructor stands for (rules R75, R76);
of `unknown`, which has no row among the 34, nothing is said. -/
def EncodeInRow.Statement (i : Instr) : Prop :=
  match opcodeRows.find? (fun row => row.number == i.rowNumber) with
  | some row => encode i &&& row.mask = row.code
  | none => i.rowNumber = 35

theorem EncodeInRow.cls : EncodeInRow.Statement .cls := formatXB_maskByte _ _ _

theorem EncodeInRow.ret : EncodeInRow.Statement .ret := formatXB_maskByte _ _ _

theorem EncodeInRow.jp (nnn : Imm12) : EncodeInRow.Statement (.jp nnn) := formatA_mask _ _

theorem EncodeInRow.call (nnn : Imm12) : EncodeInRow.Statement (.call nnn) := formatA_mask _ _

theorem EncodeInRow.seByte (x : RegIdx) (nn : Byte) : EncodeInRow.Statement (.seByte x nn) := formatXB_mask _ _ _

theorem EncodeInRow.sneByte (x : RegIdx) (nn : Byte) : EncodeInRow.Statement (.sneByte x nn) := formatXB_mask _ _ _

theorem EncodeInRow.seReg (x y : RegIdx) : EncodeInRow.Statement (.seReg x y) := formatXYN_mask _ _ _ _

theorem EncodeInRow.ldByte (x : RegIdx) (nn : Byte) : EncodeInRow.Statement (.ldByte x nn) := formatXB_mask _ _ _

theorem EncodeInRow.addByte (x : RegIdx) (nn : Byte) : EncodeInRow.Statement (.addByte x nn) := formatXB_mask _ _ _

theorem EncodeInRow.ldReg (x y : RegIdx) : EncodeInRow.Statement (.ldReg x y) := formatXYN_maskNibble _ _ _ _

theorem EncodeInRow.orReg (x y : RegIdx) : EncodeInRow.Statement (.orReg x y) := formatXYN_maskNibble _ _ _ _

theorem EncodeInRow.andReg (x y : RegIdx) : EncodeInRow.Statement (.andReg x y) := formatXYN_maskNibble _ _ _ _

theorem EncodeInRow.xorReg (x y : RegIdx) : EncodeInRow.Statement (.xorReg x y) := formatXYN_maskNibble _ _ _ _

theorem EncodeInRow.addReg (x y : RegIdx) : EncodeInRow.Statement (.addReg x y) := formatXYN_maskNibble _ _ _ _

theorem EncodeInRow.subReg (x y : RegIdx) : EncodeInRow.Statement (.subReg x y) := formatXYN_maskNibble _ _ _ _

theorem EncodeInRow.shrReg (x y : RegIdx) : EncodeInRow.Statement (.shrReg x y) := formatXYN_maskNibble _ _ _ _

theorem EncodeInRow.subnReg (x y : RegIdx) : EncodeInRow.Statement (.subnReg x y) := formatXYN_maskNibble _ _ _ _

theorem EncodeInRow.shlReg (x y : RegIdx) : EncodeInRow.Statement (.shlReg x y) := formatXYN_maskNibble _ _ _ _

theorem EncodeInRow.sneReg (x y : RegIdx) : EncodeInRow.Statement (.sneReg x y) := formatXYN_mask _ _ _ _

theorem EncodeInRow.ldI (nnn : Imm12) : EncodeInRow.Statement (.ldI nnn) := formatA_mask _ _

theorem EncodeInRow.jpV0 (nnn : Imm12) : EncodeInRow.Statement (.jpV0 nnn) := formatA_mask _ _

theorem EncodeInRow.rnd (x : RegIdx) (nn : Byte) : EncodeInRow.Statement (.rnd x nn) := formatXB_mask _ _ _

theorem EncodeInRow.drw (x y : RegIdx) (n : Nibble) : EncodeInRow.Statement (.drw x y n) := formatXYN_mask _ _ _ _

theorem EncodeInRow.skp (x : RegIdx) : EncodeInRow.Statement (.skp x) := formatXB_maskByte _ _ _

theorem EncodeInRow.sknp (x : RegIdx) : EncodeInRow.Statement (.sknp x) := formatXB_maskByte _ _ _

theorem EncodeInRow.ldVxDT (x : RegIdx) : EncodeInRow.Statement (.ldVxDT x) := formatXB_maskByte _ _ _

theorem EncodeInRow.ldVxK (x : RegIdx) : EncodeInRow.Statement (.ldVxK x) := formatXB_maskByte _ _ _

theorem EncodeInRow.ldDTVx (x : RegIdx) : EncodeInRow.Statement (.ldDTVx x) := formatXB_maskByte _ _ _

theorem EncodeInRow.ldSTVx (x : RegIdx) : EncodeInRow.Statement (.ldSTVx x) := formatXB_maskByte _ _ _

theorem EncodeInRow.addI (x : RegIdx) : EncodeInRow.Statement (.addI x) := formatXB_maskByte _ _ _

theorem EncodeInRow.ldF (x : RegIdx) : EncodeInRow.Statement (.ldF x) := formatXB_maskByte _ _ _

theorem EncodeInRow.ldB (x : RegIdx) : EncodeInRow.Statement (.ldB x) := formatXB_maskByte _ _ _

theorem EncodeInRow.storeRegs (x : RegIdx) : EncodeInRow.Statement (.storeRegs x) := formatXB_maskByte _ _ _

theorem EncodeInRow.loadRegs (x : RegIdx) : EncodeInRow.Statement (.loadRegs x) := formatXB_maskByte _ _ _

theorem EncodeInRow.unknown (word : Word) : EncodeInRow.Statement (.unknown word) := rfl

end Sys2Proof.Laws
end

