-- ==== Sys2Proof/Tests/Slice0.lean ====
section
/-! SUPPORT. The model's own tests. Expected values are the vectors of `spec/95_test_vectors.md` (the section is named in each
heading) or hand calculation from the rule named. Witness theorems show that the hypotheses of the statements can be met. -/

namespace Sys2Proof.Tests

open Sys2Proof.Machine

/-! ### Helpers -/

/-- The state after one step that runs the word `w`, placed at `PC`. -/
def after (w : Word) (s : State) : State :=
  match step (s.placeWord w) with
  | .next t => t
  | _ => s

/-- The answer of that step. -/
def answer (w : Word) (s : State) : Answer := stepAnswer (s.placeWord w) (after w s)

/-- The state after reset with the given registers. -/
def regs (l : List (RegIdx × Byte)) : State := l.foldl (fun s p => s.setV p.1 p.2) State.reset

/-- The state after reset with `I` and bytes of memory from `I` up. -/
def mem (i : Word) (bytes : List Byte) : State := (State.reset.setI i).setMem (Memory.writeBlock [] i.toNat bytes)

/-- Some stack entry filled and `SP` set. -/
def stack (n : Fin 17) (top : Word) : State :=
  (State.reset.setStk (State.reset.stk.setIfInBounds (n.val - 1) top)).setSp n

/-- One cell of the screen set. -/
def lit (r : Fin 32) (c : Fin 64) (s : State) : State := s.setFb (s.fb.flip r c)

/-- One key held. -/
def held (k : Fin 16) (s : State) : State := s.setKey (s.key.set k true)

/-! ### WellFormed: an ill-formed term for each check -/

theorem test_wf_refuses_cls_word : (Instr.unknown 0x00E0).wf = false := by decide
theorem test_wf_refuses_ret_word : (Instr.unknown 0x0FEE).wf = false := by decide
theorem test_wf_refuses_jump_word : (Instr.unknown 0x1234).wf = false := by decide
theorem test_wf_refuses_load_word : (Instr.unknown 0x8120).wf = false := by decide
theorem test_wf_refuses_key_skip_word : (Instr.unknown 0xE19E).wf = false := by decide
theorem test_wf_refuses_timer_word : (Instr.unknown 0xF107).wf = false := by decide
theorem test_wf_admits_unknown_words :
    (Instr.unknown 0x0000).wf = true ∧ (Instr.unknown 0x800F).wf = true ∧ (Instr.unknown 0xE19D).wf = true ∧
      (Instr.unknown 0xFFFF).wf = true := by decide

/-! ### Decode (2.1): every constructor, from a word with its fields written out -/

theorem test_decode_cls : decode 0x00E0 = .cls ∧ decode 0x01E0 = .cls ∧ decode 0x0FE0 = .cls := by decide
theorem test_decode_ret : decode 0x00EE = .ret ∧ decode 0x0FEE = .ret := by decide
theorem test_decode_jp : decode 0b0001_1010_1011_1100 = .jp 0xABC ∧ decode 0x1FFF = .jp 0xFFF := by decide
theorem test_decode_call : decode 0b0010_1010_1011_1100 = .call 0xABC := by decide
theorem test_decode_seByte : decode 0b0011_0011_0010_1010 = .seByte 3 0x2A := by decide
theorem test_decode_sneByte : decode 0b0100_0011_0010_1010 = .sneByte 3 0x2A := by decide
theorem test_decode_seReg : decode 0b0101_0001_0010_0000 = .seReg 1 2 ∧ decode 0x512F = .seReg 1 2 := by decide
theorem test_decode_ldByte : decode 0b0110_1111_1010_1011 = .ldByte 0xF 0xAB := by decide
theorem test_decode_addByte : decode 0b0111_0000_1111_1111 = .addByte 0 0xFF := by decide
theorem test_decode_ldReg : decode 0b1000_0001_0010_0000 = .ldReg 1 2 := by decide
theorem test_decode_orReg : decode 0b1000_0001_0010_0001 = .orReg 1 2 := by decide
theorem test_decode_andReg : decode 0b1000_0001_0010_0010 = .andReg 1 2 := by decide
theorem test_decode_xorReg : decode 0b1000_0001_0010_0011 = .xorReg 1 2 := by decide
theorem test_decode_addReg : decode 0b1000_0001_0010_0100 = .addReg 1 2 := by decide
theorem test_decode_subReg : decode 0b1000_0001_0010_0101 = .subReg 1 2 := by decide
theorem test_decode_shrReg : decode 0b1000_0001_0010_0110 = .shrReg 1 2 := by decide
theorem test_decode_subnReg : decode 0b1000_0001_0010_0111 = .subnReg 1 2 := by decide
theorem test_decode_shlReg : decode 0b1000_0001_0010_1110 = .shlReg 1 2 := by decide
theorem test_decode_sneReg : decode 0b1001_1010_1011_0000 = .sneReg 0xA 0xB ∧ decode 0x9AB5 = .sneReg 0xA 0xB := by decide
theorem test_decode_ldI : decode 0b1010_0010_1111_0000 = .ldI 0x2F0 := by decide
theorem test_decode_jpV0 : decode 0b1011_0011_0000_0000 = .jpV0 0x300 := by decide
theorem test_decode_rnd : decode 0b1100_0011_0000_1111 = .rnd 3 0x0F := by decide
theorem test_decode_drw : decode 0b1101_0001_0010_0101 = .drw 1 2 5 := by decide
theorem test_decode_skp : decode 0b1110_0010_1001_1110 = .skp 2 := by decide
theorem test_decode_sknp : decode 0b1110_1111_1010_0001 = .sknp 0xF := by decide
theorem test_decode_ldVxDT : decode 0b1111_0010_0000_0111 = .ldVxDT 2 := by decide
theorem test_decode_ldVxK : decode 0b1111_0001_0000_1010 = .ldVxK 1 := by decide
theorem test_decode_ldDTVx : decode 0b1111_0000_0001_0101 = .ldDTVx 0 := by decide
theorem test_decode_ldSTVx : decode 0b1111_0011_0001_1000 = .ldSTVx 3 := by decide
theorem test_decode_addI : decode 0b1111_0010_0001_1110 = .addI 2 := by decide
theorem test_decode_ldF : decode 0b1111_0100_0010_1001 = .ldF 4 := by decide
theorem test_decode_ldB : decode 0b1111_0000_0011_0011 = .ldB 0 := by decide
theorem test_decode_storeRegs : decode 0b1111_0010_0101_0101 = .storeRegs 2 := by decide
theorem test_decode_loadRegs : decode 0b1111_1111_0110_0101 = .loadRegs 0xF := by decide
theorem test_decode_unknown_group0 : ([0x0000, 0x00E1, 0x00FD, 0x00C1, 0x0123] : List Word).map decode =
    [.unknown 0x0000, .unknown 0x00E1, .unknown 0x00FD, .unknown 0x00C1, .unknown 0x0123] := by decide
theorem test_decode_unknown_group8 : ([0x8008, 0x8009, 0x800A, 0x800B, 0x800C, 0x800D, 0x800F] : List Word).map decode =
    [.unknown 0x8008, .unknown 0x8009, .unknown 0x800A, .unknown 0x800B, .unknown 0x800C, .unknown 0x800D, .unknown 0x800F] := by
  decide
theorem test_decode_unknown_groupE : ([0xE000, 0xE09F, 0xE0A0, 0xE19D] : List Word).map decode =
    [.unknown 0xE000, .unknown 0xE09F, .unknown 0xE0A0, .unknown 0xE19D] := by decide
theorem test_decode_unknown_groupF : ([0xF000, 0xF01F, 0xF030, 0xF075, 0xF085, 0xFFFF] : List Word).map decode =
    [.unknown 0xF000, .unknown 0xF01F, .unknown 0xF030, .unknown 0xF075, .unknown 0xF085, .unknown 0xFFFF] := by decide
theorem test_decode_bytes : decodeBytes [0x60, 0x9C, 0xA3] = .ok (.ldByte 0 0x9C, [0xA3]) := by rfl
theorem test_decode_truncated : decodeBytes [0x60] = .error .truncated := by rfl
theorem test_encode_bytes : encodeBytes (.drw 0 1 2) = [0xD0, 0x12] ∧ encodeBytes (.storeRegs 1) = [0xF1, 0x55] := by decide
theorem test_table_word : decodeTableWord 16 0xF21E = some (.addI 2) := by decide

/-! ### Control flow (2.2, 2.3) -/

theorem test_jp_odd : (after 0x1FFF State.reset).pc = 0x0FFF := by decide
theorem test_jp_self : (after 0x1200 ((State.reset.setDt 2).setSt 1)).pc = 0x200 ∧
    (after 0x1200 ((State.reset.setDt 2).setSt 1)).dt = 1 ∧ (after 0x1200 ((State.reset.setDt 2).setSt 1)).st = 0 := by decide
theorem test_call_last_entry : (after 0x2ABC (stack 15 0x300)).stk[15] = 0x200 ∧ (after 0x2ABC (stack 15 0x300)).sp = 16 ∧
    (after 0x2ABC (stack 15 0x300)).pc = 0x0ABC := by decide
theorem test_call_overflow : answer 0x2ABC (stack 16 0x300) = .fault .stackOverflow ∧
    (after 0x2ABC (stack 16 0x300)).pc = 0x200 ∧ (after 0x2ABC (stack 16 0x300)).sp = 16 := by decide
theorem test_ret_keeps_entry : (after 0x00EE (stack 1 0x204)).pc = 0x206 ∧ (after 0x00EE (stack 1 0x204)).sp = 0 ∧
    (after 0x00EE (stack 1 0x204)).stk[0] = 0x204 := by decide
theorem test_ret_underflow : answer 0x00EE State.reset = .fault .stackUnderflow ∧ (after 0x00EE State.reset).pc = 0x200 := by decide
theorem test_seByte : (after 0x332A (regs [(3, 0x2A)])).pc = 0x204 ∧ (after 0x332A (regs [(3, 0x2B)])).pc = 0x202 := by decide
theorem test_sneByte : (after 0x432A (regs [(3, 0x2A)])).pc = 0x202 ∧ (after 0x432A (regs [(3, 0)])).pc = 0x204 := by decide
theorem test_seReg : (after 0x5120 (regs [(1, 7), (2, 7)])).pc = 0x204 ∧ (after 0x5120 (regs [(1, 7), (2, 8)])).pc = 0x202 := by decide
theorem test_sneReg : (after 0x9120 (regs [(1, 7), (2, 8)])).pc = 0x204 ∧ (after 0x9120 (regs [(1, 7), (2, 7)])).pc = 0x202 := by decide
theorem test_jpV0 : (after 0xB300 (regs [(0, 4)])).pc = 0x304 ∧ (after 0xBFFF (regs [(0, 0xFF)])).pc = 0x10FE := by decide
theorem test_unknown : answer 0x0000 (State.reset.setDt 3) = .unknown 0x200 0 ∧
    (after 0x0000 (State.reset.setDt 3)).pc = 0x202 ∧ (after 0x0000 (State.reset.setDt 3)).dt = 2 := by decide
theorem test_pc_runs_to_1000 : (after 0x6000 (State.reset.setPc 0xFFE)).pc = 0x1000 ∧
    (after 0x3000 (State.reset.setPc 0xFFC)).pc = 0x1000 := by decide

/-- The state after one step of a state, whatever it is. -/
def next (s : State) : State :=
  match step s with
  | .next t => t
  | _ => s

theorem test_fetch_fault : (next ((State.reset.setPc 0xFFF).setDt 5)).fault = .addressRange ∧
    (next ((State.reset.setPc 0xFFF).setDt 5)).pc = 0xFFF ∧ (next ((State.reset.setPc 0xFFF).setDt 5)).dt = 5 := by decide
theorem test_odd_fetch_big_endian :
    (next (((mem 0x201 [0x6A, 0x12]).setPc 0x201))).getV 0xA = 0x12 ∧ (next (((mem 0x201 [0x6A, 0x12]).setPc 0x201))).pc = 0x203 := by
  decide

/-! ### Arithmetic and logic (2.4, S1, S2) -/

theorem test_ldByte : (after 0x6FAB (regs [(0xF, 0x55)])).getV 0xF = 0xAB := by decide
theorem test_addByte_wraps : (after 0x7002 (regs [(0, 0xFF), (0xF, 0x55)])).getV 0 = 1 ∧
    (after 0x7002 (regs [(0, 0xFF), (0xF, 0x55)])).getV 0xF = 0x55 := by decide
theorem test_ldReg : (after 0x8120 (regs [(2, 0x5A), (0xF, 0x55)])).v = (regs [(1, 0x5A), (2, 0x5A), (0xF, 0x55)]).v := by decide
theorem test_orReg : (after 0x8121 (regs [(1, 0xF0), (2, 0x0F), (0xF, 0x55)])).v = (regs [(1, 0xFF), (2, 0x0F), (0xF, 0x55)]).v := by
  decide
theorem test_andReg : (after 0x8122 (regs [(1, 0xF3), (2, 0x3C), (0xF, 0x55)])).v = (regs [(1, 0x30), (2, 0x3C), (0xF, 0x55)]).v := by
  decide
theorem test_xorReg : (after 0x8123 (regs [(1, 0xFF), (2, 0x0F), (0xF, 0x55)])).v = (regs [(1, 0xF0), (2, 0x0F), (0xF, 0x55)]).v := by
  decide
theorem test_addReg : (after 0x8124 (regs [(1, 0xFF), (2, 1)])).v = (regs [(1, 0), (2, 1), (0xF, 1)]).v := by decide
theorem test_addReg_flag_last : (after 0x8F14 (regs [(0xF, 0x01), (1, 2)])).getV 0xF = 0 ∧
    (after 0x81F4 (regs [(1, 1), (0xF, 0xFF)])).getV 1 = 0 := by decide
theorem test_subReg : (after 0x8125 (regs [(1, 5), (2, 0x0A)])).v = (regs [(1, 0xFB), (2, 0x0A), (0xF, 0)]).v := by decide
theorem test_subReg_equal : (after 0x8125 (regs [(1, 7), (2, 7)])).v = (regs [(1, 0), (2, 7), (0xF, 1)]).v := by decide
theorem test_subnReg : (after 0x8127 (regs [(1, 0x0A), (2, 5)])).v = (regs [(1, 0xFB), (2, 5), (0xF, 0)]).v := by decide
theorem test_subnReg_no_borrow : (after 0x8127 (regs [(1, 5), (2, 0x0A)])).v = (regs [(1, 5), (2, 0x0A), (0xF, 1)]).v := by decide

/-- The registers after an executor's next state, and the given ones otherwise. -/
def regsOf (r : Result) (s : State) : Regs :=
  match r with
  | .next t => t.v
  | _ => s.v

theorem test_shr_vx (h : Config.shiftSrc = .vx) :
    regsOf (exec (.shrReg 1 2) (regs [(1, 5), (2, 0x80)])) State.reset = (regs [(1, 2), (2, 0x80), (0xF, 1)]).v := by
  simp only [exec_shrReg, execShrReg, State.shiftOperand, h]; decide
theorem test_shr_vy (h : Config.shiftSrc = .vy) :
    regsOf (exec (.shrReg 1 2) (regs [(1, 5), (2, 0x80)])) State.reset = (regs [(1, 0x40), (2, 0x80), (0xF, 0)]).v := by
  simp only [exec_shrReg, execShrReg, State.shiftOperand, h]; decide
theorem test_shl_vx (h : Config.shiftSrc = .vx) :
    regsOf (exec (.shlReg 1 2) (regs [(1, 0x40), (2, 0xFF)])) State.reset = (regs [(1, 0x80), (2, 0xFF), (0xF, 0)]).v := by
  simp only [exec_shlReg, execShlReg, State.shiftOperand, h]; decide
theorem test_shl_vy (h : Config.shiftSrc = .vy) :
    regsOf (exec (.shlReg 1 2) (regs [(1, 0x40), (2, 0xFF)])) State.reset = (regs [(1, 0xFE), (2, 0xFF), (0xF, 1)]).v := by
  simp only [exec_shlReg, execShlReg, State.shiftOperand, h]; decide
theorem test_rnd : (after 0xC30F (State.reset.setRndIn (some 0xB7))).getV 3 = 7 := by decide
theorem test_rnd_zero_mask_any_byte : (after 0xC300 (regs [(3, 9)])).draws = 1 ∧ (after 0xC300 (regs [(3, 9)])).pc = 0x202 := by decide

/-! ### Index register and memory (2.5, S8) -/

theorem test_ldI : (after 0xAFFF State.reset).i = 0xFFF := by decide
theorem test_addI : (after 0xF21E ((regs [(2, 5), (0xF, 0x55)]).setI 0xFFE)).i = 0x1003 ∧
    (after 0xF21E ((regs [(2, 1)]).setI 0xFFFF)).i = 0 := by decide
theorem test_ldF : (after 0xF429 (regs [(4, 0xF)])).i = 0x4B := by decide
theorem test_ldF_fault : answer 0xF429 (regs [(4, 0x10)]) = .fault .fontIndexRange ∧ (after 0xF429 (regs [(4, 0x10)])).pc = 0x200 := by
  decide
theorem test_ldB : ([0x300, 0x301, 0x302].map (after 0xF033 ((regs [(0, 0x9C)]).setI 0x300)).mem.read) = [1, 5, 6] := by decide
theorem test_ldB_fault : answer 0xF033 ((regs [(0, 255)]).setI 0xFFE) = .fault .addressRange ∧
    (after 0xF033 ((regs [(0, 255)]).setI 0xFFE)).mem.read 0xFFE = 0 := by decide
theorem test_storeRegs :
    ([0x300, 0x301, 0x302, 0x303].map (after 0xF255 ((regs [(0, 0x11), (1, 0x22), (2, 0x33), (3, 0x44)]).setI 0x300)).mem.read) =
      [0x11, 0x22, 0x33, 0] := by decide
theorem test_storeRegs_top : answer 0xFF55 (State.reset.setI 0xFF0) = .ok ∧
    answer 0xFF55 (State.reset.setI 0xFF1) = .fault .addressRange := by decide
theorem test_loadRegs : (after 0xF265 ((mem 0x300 [1, 5, 6, 9]).setV 3 0x77)).v = (regs [(0, 1), (1, 5), (2, 6), (3, 0x77)]).v := by
  decide
theorem test_loadRegs_fault : answer 0xF165 (State.reset.setI 0xFFF) = .fault .addressRange ∧
    (after 0xF065 (mem 0xFFF [0x42])).getV 0 = 0x42 := by decide
theorem test_store_over_itself :
    ([0x200, 0x201].map (after 0xF155 ((regs [(0, 0x12), (1, 0)]).setI 0x200)).mem.read) = [0x12, 0] ∧
      answer 0xF155 ((regs [(0, 0x12), (1, 0)]).setI 0x200) = .ok := by decide
theorem test_write_back_is_unlisted : Memory.write (Memory.write [] 0x300 7) 0x300 0 = [] := by decide
theorem test_default_font_length : Config.defaultFont.length = 80 := by decide
theorem test_default_font_is_read (h : Config.HasDefaultFont) : Memory.read [] 0x4B = 0xF0 ∧ Memory.read [] 0x4F = 0x80 := by
  have e : ∀ a (ha : a < 80), Memory.read [] a = Config.font.toList[a]'(by simpa using ha) := by
    intro a ha; simp [Memory.unlisted, ha]
  rw [e 0x4B (by decide), e 0x4F (by decide)]
  simp only [show Config.font.toList = Config.defaultFont from h]
  exact ⟨rfl, rfl⟩

/-! ### Display (2.6) -/

theorem test_cls : (after 0x00E0 (lit 3 3 (regs [(0xF, 9)]))).fb.pixel 3 3 = false ∧
    (after 0x00E0 (lit 3 3 (regs [(0xF, 9)]))).redraw = true ∧ (after 0x00E0 (lit 3 3 (regs [(0xF, 9)]))).getV 0xF = 9 := by decide
theorem test_drw_wraps :
    let t := after 0xD011 (((mem 0x300 [0xFF]).setV 0 0xFC).setV 1 0xFF)
    ([59, 60, 63, 0, 3, 4].map (t.fb.pixel 31)) = [false, true, true, true, true, false] ∧ t.fb.pixel 0 60 = false ∧
      t.getV 0xF = 0 ∧ t.redraw = true := by decide
theorem test_drw_collision :
    let t := after 0xD121 (lit 1 3 (lit 1 10 (((mem 0x300 [0xF0]).setV 1 2).setV 2 1)))
    ([1, 2, 3, 4, 5, 6, 10].map (t.fb.pixel 1)) = [false, true, false, true, true, false, true] ∧ t.getV 0xF = 1 := by decide
theorem test_drw_reads_old_vf : (after 0xDFF1 ((mem 0x300 [0x80]).setV 0xF 3)).fb.pixel 3 3 = true ∧
    (after 0xDFF1 ((mem 0x300 [0x80]).setV 0xF 3)).getV 0xF = 0 := by decide
theorem test_drw_no_rows : answer 0xD010 ((regs [(0xF, 7)]).setI 0x1000) = .ok ∧
    (after 0xD010 ((regs [(0xF, 7)]).setI 0x1000)).getV 0xF = 0 ∧ (after 0xD010 ((regs [(0xF, 7)]).setI 0x1000)).redraw = true := by
  decide
theorem test_drw_fault : answer 0xD012 ((regs [(0xF, 9)]).setI 0xFFF) = .fault .addressRange ∧
    (after 0xD012 ((regs [(0xF, 9)]).setI 0xFFF)).getV 0xF = 9 ∧ (after 0xD012 ((regs [(0xF, 9)]).setI 0xFFF)).redraw = false := by
  decide

/-! ### Keys and timers (2.7) -/

theorem test_skp : (after 0xE29E (held 0xA (regs [(2, 0xA)]))).pc = 0x204 ∧ (after 0xE29E (regs [(2, 0xA)])).pc = 0x202 := by decide
theorem test_skp_fault : answer 0xE29E (regs [(2, 0x10)]) = .fault .keyIndexRange ∧ (after 0xE29E (regs [(2, 0x10)])).pc = 0x200 := by
  decide
theorem test_sknp : (after 0xE2A1 (regs [(2, 0xA)])).pc = 0x204 ∧ (after 0xE2A1 (held 0xA (regs [(2, 0xA)]))).pc = 0x202 := by decide
theorem test_sknp_fault : answer 0xE2A1 (regs [(2, 0xFF)]) = .fault .keyIndexRange := by decide
theorem test_ldVxDT : (after 0xF207 (State.reset.setDt 6)).getV 2 = 6 ∧ (after 0xF207 (State.reset.setDt 6)).dt = 5 := by decide
theorem test_ldDTVx : (after 0xF015 (regs [(0, 0x0A)])).dt = 9 ∧ (after 0xF015 ((regs [(0, 0)]).setDt 7)).dt = 0 := by decide
theorem test_ldSTVx : (after 0xF318 (regs [(3, 2)])).st = 1 ∧ (after 0xF318 (regs [(3, 2)])).outSoundActive = true ∧
    (after 0xF318 ((regs [(3, 1)]).setDt 5)).outSoundActive = false := by decide
theorem test_ldVxK : let t := after 0xF10A ((State.reset.setDt 3).setSt 1)
    t.wait = .awaitingKey 1 ∧ t.pc = 0x200 ∧ t.dt = 2 ∧ t.st = 0 ∧ t.outWaiting = true := by decide
theorem test_keyEvent_resolves : let t := ((after 0xFF0A State.reset).keyEvent 5 true).1
    t.getV 0xF = 5 ∧ t.pc = 0x202 ∧ t.wait = .running := by decide
theorem test_keyEvent_held_is_no_edge : ((after 0xFF0A (held 5 State.reset)).keyEvent 5 true).1.wait = .awaitingKey 0xF := by decide
theorem test_keyEvent_rejects : (State.reset.keyEvent 16 true).2 = .rejected ∧ (State.reset.keyEvent (-1) true).2 = .rejected := by
  decide

/-! ### Faults, reset and load (2.8, 2.9) -/

theorem test_fault_sticks : let t := after 0x00EE (State.reset.setDt 4)
    next t = t ∧ t.dt = 4 ∧ t.outFault = 2 := by decide
theorem test_load : ((State.reset.load [0x12, 0x00]).1.mem = [(0x200, 0x12)]) ∧ (State.reset.load []).2 = .ok := by decide
theorem test_empty_program : next State.reset = (State.reset.setPc 0x202) := by decide

/-! ### Witnesses: states and operands that meet the hypotheses of each statement, each clause at a boundary value -/

theorem witness_DecodeEncodeRoundTrip : (Instr.drw 0xF 0xF 0xF).wf = true ∧ (Instr.unknown 0xFFFF).wf = true := by decide
theorem witness_DecodeSelectsMatchingRow : ∀ row ∈ opcodeRows, (0xFFFF : Word) &&& row.mask ≠ row.code := by decide
theorem witness_UnknownWordsAreTheListedOnes : decode 0x0000 = .unknown 0x0000 ∧ unknownWord 0xF066 = true := by decide
theorem witness_EncodeOfDecodeDropsIgnoredBitsOnly : (decode 0x0FE0).rowNumber = 1 ∧ (decode 0x0FEE).rowNumber = 2 ∧
    (decode 0x512F).rowNumber = 7 ∧ (decode 0x9ABF).rowNumber = 19 ∧ (decode 0x8120).rowNumber = 10 := by decide
theorem witness_FetchIsBigEndianAndFaultsAboveFFE : (State.reset.setPc 0xFFE).pc.toNat ≤ 0xFFE ∧
    0xFFE < (State.reset.setPc 0xFFF).pc.toNat ∧ (State.reset.setPc 0xFFF).fault = .none ∧
    (State.reset.setPc 0xFFF).wait = .running := by decide
theorem witness_StepRunsDecodedInstruction : (State.reset.setPc 0xFFE).fault = .none ∧
    (State.reset.setPc 0xFFE).wait = .running ∧ (State.reset.setPc 0xFFE).pc.toNat ≤ 0xFFE := by decide
theorem witness_KeyWaitHoldsAndTimersRun : (State.reset.setWait (.awaitingKey 0xF)).fault = .none ∧
    (State.reset.setWait (.awaitingKey 0xF)).wait = .awaitingKey 0xF := by decide
theorem witness_RaisedFaultChangesOnlyTheLatchAndSticks : (State.reset.setPc 0xFFF).fault = .none ∧
    ∃ t, step (State.reset.setPc 0xFFF) = .next t ∧ t.fault ≠ .none := ⟨by decide, _, rfl, by decide⟩

theorem witness_RaisedFaultChangesOnlyTheLatchAndSticks_latched :
    (State.reset.setFault .programTooLarge).fault = .programTooLarge ∧
      (State.reset.setFault .programTooLarge).fault ≠ .none := by decide
theorem witness_RaisedFaultChangesOnlyTheLatchAndSticks_load :
    3584 < (List.replicate 3585 (7 : Byte)).length ∧
      (State.reset.load (List.replicate 3585 7)).1.fault = .programTooLarge := by
  have h : 3584 < (List.replicate 3585 (7 : Byte)).length :=
    Nat.lt_of_lt_of_eq (Nat.lt_succ_self 3584) List.length_replicate.symm
  exact ⟨h, by rw [State.load, if_pos h]; rfl⟩

/-- What `TimersTickOncePerStep` assumes of a state. -/
def ticks (s : State) : Prop := s.fault = .none ∧ ∃ t, step s = .next t ∧ t.fault = .none

theorem witness_TimersTickOncePerStep_write_delay :
    ticks (State.reset.placeWord 0xF015) ∧ (State.reset.placeWord 0xF015).wait = .running ∧
      (State.reset.placeWord 0xF015).fetch = some 0xF015 ∧ decode 0xF015 = .ldDTVx 0 :=
  ⟨⟨by decide, _, rfl, by decide⟩, by decide, by decide, by decide⟩
theorem witness_TimersTickOncePerStep_write_sound :
    ticks (State.reset.placeWord 0xF018) ∧ (State.reset.placeWord 0xF018).wait = .running ∧
      (State.reset.placeWord 0xF018).fetch = some 0xF018 ∧ decode 0xF018 = .ldSTVx 0 :=
  ⟨⟨by decide, _, rfl, by decide⟩, by decide, by decide, by decide⟩
theorem witness_TimersTickOncePerStep_no_write :
    ticks State.reset ∧ State.reset.fetch = some 0 ∧ (∀ x, decode 0 ≠ .ldDTVx x) ∧ (∀ x, decode 0 ≠ .ldSTVx x) :=
  ⟨⟨rfl, _, rfl, by decide⟩, by decide, by decide, by decide⟩
theorem witness_TimersTickOncePerStep_waiting :
    ticks (State.reset.setWait (.awaitingKey 0)) ∧ (State.reset.setWait (.awaitingKey 0)).wait ≠ .running :=
  ⟨⟨by decide, _, rfl, by decide⟩, by decide⟩
theorem witness_UnknownWordAdvancesAndReports : State.reset.fault = .none ∧ State.reset.wait = .running ∧
    State.reset.fetch = some 0 ∧ unknownWord 0 = true := by decide
theorem witness_IdleStepOnlyRunsTimers : (State.reset.placeWord 0x1200).idle :=
  ⟨by decide, by decide, 0x1200, 0x200, by decide, by decide, by decide⟩
theorem witness_PlacedWordIsTheNextInstruction : (mem 0xFFF [1]).mem.wf = true := by decide
theorem witness_CallPushesItsOwnAddress : (stack 15 0).sp.val < 16 ∧ (stack 16 0).sp.val = 16 := by decide
theorem witness_ReturnGoesTwoPastTheCall : 0 < (stack 1 0).sp.val ∧ 0 < (stack 16 0).sp.val ∧ State.reset.sp.val = 0 := by decide
theorem witness_CallThenReturnResumesAfterTheCall : (stack 15 0).sp.val < 16 := by decide
theorem witness_KeySkips : ((regs [(2, 0xF)]).getV 2).toNat < 16 ∧ 0xF < ((regs [(2, 0x10)]).getV 2).toNat := by decide
theorem witness_flag_writers_destination : (0xE : RegIdx) ≠ 0xF := by decide
theorem witness_ShiftsByOne : ∃ src, src = (if Config.shiftSrc = .vx then State.reset.getV 1 else State.reset.getV 2) := ⟨_, rfl⟩
theorem witness_RandomByteIsMasked : (State.reset.setRndIn (some 0xB7)).rndIn = some 0xB7 := by decide
theorem witness_RandomByteMattersToRndOnly : State.reset.fetch = some 0 ∧ ∀ x nn, decode 0 ≠ .rnd x nn :=
  ⟨by decide, fun _ _ h => Instr.noConfusion (show Instr.unknown 0 = _ from h)⟩
theorem witness_FontAddress : ((regs [(4, 0xF)]).getV 4).toNat ≤ 0xF ∧ 0xF < ((regs [(4, 0x10)]).getV 4).toNat := by decide
theorem witness_BcdStoreWritesThreeDigits : State.reset.mem.wf = true ∧ (State.reset.setI 0xFFD).i.toNat ≤ 0xFFD ∧
    0xFFD < (State.reset.setI 0xFFE).i.toNat := by decide
theorem witness_block_transfers : (mem 0xFF0 [1]).mem.wf = true ∧ (mem 0xFF0 [1]).i.toNat + (0xF : RegIdx).toNat ≤ 0xFFF ∧
    0xFFF < (mem 0xFF1 [1]).i.toNat + (0xF : RegIdx).toNat := by decide
theorem witness_DrawFlipsTheCoveredCells_ranges :
    (0xF : Nibble).toNat ≠ 0 ∧ (State.reset.setI 0xFF1).i.toNat + (0xF : Nibble).toNat - 1 ≤ 0xFFF ∧ (0 : Nibble).toNat = 0 ∧
      0 < (1 : Nibble).toNat ∧ 0xFFF < (State.reset.setI 0x1000).i.toNat + (1 : Nibble).toNat - 1 := by decide

/-- A one-row sprite at 0x300 drawn at the last column and the last row: it wraps to column 0. -/
def sprite : State := ((mem 0x300 [0xC0]).setV 0 63).setV 1 31

theorem witness_DrawFlipsTheCoveredCells_collision :
    SpriteCovers sprite.mem sprite.base 1 (sprite.getV 0) (sprite.getV 1) 31 0 ∧ (lit 31 0 sprite).fb.pixel 31 0 = true :=
  ⟨⟨0, 1, by decide, by decide, by decide, by decide, by decide⟩, by decide⟩
theorem witness_DrawFlipsTheCoveredCells_no_collision : ∀ r c, sprite.fb.pixel r c = false := fun r c => by
  show State.reset.fb.pixel r c = false
  exact Screen.pixel_blank r c
theorem witness_DrawTwiceRestoresTheScreen : sprite.i.toNat + (1 : Nibble).toNat ≤ 0x1000 ∧
    (∃ t, exec (.drw 0 1 1) sprite = .next t ∧ t.getV 0 = sprite.getV 0 ∧ t.getV 1 = sprite.getV 1) ∧
    (∃ dr dc, dr < (1 : Nibble).toNat ∧ dc < 8 ∧ (sprite.mem.read (sprite.base + dr)).getLsbD dc = true) :=
  ⟨by decide, ⟨_, rfl, by decide, by decide⟩, 0, 7, by decide, by decide, by decide⟩
theorem witness_KeyEventUpdatesLatchAndResolvesWait_rejected : ((-1 : Int) < 0 ∨ 15 < (-1 : Int)) ∧ (15 : Int) < 16 := by decide
theorem witness_KeyEventUpdatesLatchAndResolvesWait_edge : (State.reset.setWait (.awaitingKey 0xF)).wait = .awaitingKey 0xF ∧
    (State.reset.setWait (.awaitingKey 0xF)).key[15] = false := by decide
theorem witness_KeyEventUpdatesLatchAndResolvesWait_no_edge : State.reset.wait = .running ∧
    (held 15 State.reset).key[15] = true := by decide
theorem witness_InstructionsChangeOnlyTheirParts : ∃ t, exec .cls State.reset = .next t := ⟨_, rfl⟩
theorem witness_RegistersOutsideDestinationUnchanged :
    (∃ t, exec (.loadRegs 0xE) (State.reset.setI 0xFF1) = .next t) ∧ Instr.mayWriteReg 0xF (.loadRegs 0xE) = false :=
  ⟨⟨_, rfl⟩, by decide⟩
theorem witness_FlagsAreZeroOrOne : (∃ t, exec (.addReg 0xF 1) State.reset = .next t ∧ t.fault = .none) ∧
    (∃ t, exec (.drw 0 1 1) sprite = .next t ∧ t.fault = .none) := ⟨⟨_, rfl, rfl⟩, _, rfl, rfl⟩
theorem witness_MemoryOutsideTheStoreUnchanged : (∃ t, exec (.ldB 0) (State.reset.setI 0xFFD) = .next t) ∧
    (0xFFC < (State.reset.setI 0xFFD).base ∧ (State.reset.setI 0xFFD).base + (Instr.ldB 0).storeCount ≤ 0x1000) ∧
    (State.reset.base + Instr.cls.storeCount ≤ 0) := ⟨⟨_, rfl⟩, by decide, by decide⟩
theorem witness_FaultsAreExactlyTheListedOnes : State.reset.fault = .none ∧
    (∃ t, exec .ret State.reset = .next t ∧ t.fault = .stackUnderflow) ∧ (∃ t, exec .cls State.reset = .next t ∧ t.fault = .none) :=
  ⟨rfl, ⟨_, rfl, rfl⟩, _, rfl, rfl⟩
theorem witness_ResetValues : (∃ t, t = State.reset) ∧ ∃ t, t = (stack 16 7).doReset := ⟨⟨_, rfl⟩, _, rfl⟩
theorem witness_LoadCopiesTheProgram : State.reset.mem.wf = true ∧ (List.replicate 3584 (7 : Byte)).length ≤ 3584 ∧
    3584 < (List.replicate 3585 (7 : Byte)).length :=
  ⟨rfl, Nat.le_of_eq List.length_replicate, Nat.lt_of_lt_of_eq (Nat.lt_succ_self 3584) List.length_replicate.symm⟩
theorem witness_LaunchStateHoldsTheProgram : (List.replicate 3584 (7 : Byte)).length ≤ 3584 ∧
    2 ≤ (List.replicate 3584 (7 : Byte)).length :=
  ⟨Nat.le_of_eq List.length_replicate, Nat.le_trans (Nat.le_add_right 2 3582) (Nat.le_of_eq List.length_replicate.symm)⟩

/-- A session after a step: a `Load` is not offered. -/
def stepped : Session := ⟨State.reset, false⟩

theorem witness_LoadIsOfferedOnceAfterReset : stepped.loadable = false ∧ Session.start.loadable = true ∧
    (∃ y a, stepped.move .reset = .next (y, a)) ∧ (∃ y a, stepped.move (.step 7) = .next (y, a)) ∧
    (∃ y a, stepped.move (.keyEvent 16 true) = .next (y, a)) ∧ (∃ y a, stepped.move .ackRedraw = .next (y, a)) :=
  ⟨rfl, rfl, ⟨_, _, rfl⟩, ⟨_, _, rfl⟩, ⟨_, _, rfl⟩, _, _, rfl⟩

/-- A state in a key wait, with the timers running and the last stack entry in use. -/
def inKeyWait : State := after 0xF10A ((stack 16 0xFFE).setDt 3)

theorem witness_StepKeepsInvariant : inKeyWait.Inv ∧ ∃ t, step inKeyWait = .next t := by
  refine ⟨⟨?_, ?_, ?_, show inKeyWait.pc.toNat ≤ 0x10FE by decide, by decide⟩, _, rfl⟩
  · intro r h
    have e : inKeyWait.wait = .awaitingKey 1 := by decide
    rw [e] at h
    injection h with h
    subst h
    exact ⟨by decide, by decide, 0xF10A, by decide, by decide⟩
  · intro h
    exact absurd (show inKeyWait.fault = .none by decide) h
  · unfold State.stackOk; decide
theorem witness_HostMovesKeepInvariant : Session.Inv ⟨inKeyWait, false⟩ ∧
    ∃ y a, Session.move (.keyEvent 5 true) ⟨inKeyWait, false⟩ = .next (y, a) :=
  ⟨⟨witness_StepKeepsInvariant.1, fun h => nomatch h⟩, _, _, rfl⟩
theorem witness_ReachableStatesMeetInvariant :
    ∃ y as, Session.start.run [.load [0xFF, 0x0A], .step 0, .step 0, .keyEvent 5 true, .ackRedraw] = .next (y, as) ∧
      y.core.getV 0xF = 5 := ⟨_, _, rfl, by decide⟩

end Sys2Proof.Tests
end

section
/-! Control flow: the jump and the four skips on registers (rules R101, R103 to R106). -/

namespace Sys2Proof.Machine

/-! ### Writes of `PC` -/

/-- The zero extension of rule R81 keeps the value. -/
@[simp] theorem immAddress_toNat (nnn : Imm12) : (immAddress nnn).toNat = nnn.toNat :=
  BitVec.toNat_setWidth_of_le (by decide)

/-- The frame of a write of `PC`. -/
theorem State.setPc_onlyChanges (s : State) (w : Word) : OnlyChanges [.pc] s (s.setPc w) := by
  intro p hp
  cases p with
  | pc => exact absurd (List.mem_singleton_self _) hp
  | _ => simp [Part.same]

/-- The frame of a skip, taken or not. -/
theorem State.skipIf_onlyChanges (s : State) (c : Bool) : OnlyChanges [.pc] s (s.skipIf c) := by
  cases c with
  | false => exact s.setPc_onlyChanges (s.pc + 2)
  | true => exact s.setPc_onlyChanges (s.pc + 4)

/-- An outcome that is a skip, with a test that computes the condition `P`, is what the skips' statements share: a completed
instruction, `PC` by `P`, nothing else changed. -/
theorem State.exists_of_eq_skipIf {r : Result} {s : State} {c : Bool} (hr : r = .next (s.skipIf c))
    {P : Prop} [Decidable P] (hc : c = true ↔ P) :
    ∃ t, r = .next t ∧ t.pc = (if P then s.pc + 4 else s.pc + 2) ∧ OnlyChanges [.pc] s t :=
  ⟨s.skipIf c, hr, by simp [hc], s.skipIf_onlyChanges c⟩

/-! ### The statements -/

/-- Settles O15: the zero-extended `NNN` is what is written to `PC`, and only `PC` is written. -/
theorem jumpSetsPcExactly : Obligations.JumpSetsPcExactly := fun nnn s =>
  ⟨s.setPc (immAddress nnn), exec_jp nnn s, immAddress_toNat nnn, s.setPc_onlyChanges _⟩

/-- Settles O20: both instructions are the one skip, on equality and on its negation. -/
theorem byteSkips : Obligations.ByteSkips := fun x nn s =>
  ⟨State.exists_of_eq_skipIf (exec_seByte x nn s) beq_iff_eq, State.exists_of_eq_skipIf (exec_sneByte x nn s) bne_iff_ne⟩

/-- Settles O21: both instructions are the one skip, on equality and on its negation. -/
theorem registerSkips : Obligations.RegisterSkips := fun x y s =>
  ⟨State.exists_of_eq_skipIf (exec_seReg x y s) beq_iff_eq, State.exists_of_eq_skipIf (exec_sneReg x y s) bne_iff_ne⟩

end Sys2Proof.Machine
end

section
/-! Loads, the immediate add, moves and logic: the instructions that write one register and set no flag (rules R110 to R115,
R124). -/

namespace Sys2Proof.Machine

/-! ### One register written -/

/-- The sum computed as an exact integer is narrowed modulo 256 (rule R122). -/
theorem addBytes_toNat (a b : Byte) : (addBytes a b).toNat = (a.toNat + b.toNat) % 256 := BitVec.toNat_ofNat _ _

/-- The frame of a register write and the advance. -/
theorem State.setV_advance_onlyChanges (s : State) (x : RegIdx) (b : Byte) :
    OnlyChanges [.regs, .pc] s (s.setV x b).advance := by
  intro p hp
  cases p with
  | regs | pc => simp at hp
  | _ => simp [Part.same]

/-- An outcome that writes one register and advances is what the flagless instructions share: a completed instruction, the byte
in its destination and every other register as it was, `PC + 2`, nothing else changed. -/
theorem State.exists_of_eq_setV_advance {o : Result} {s : State} {x : RegIdx} {b : Byte}
    (ho : o = .next (s.setV x b).advance) :
    ∃ t, o = .next t ∧ (∀ r, t.getV r = if r = x then b else s.getV r) ∧ t.pc = s.pc + 2 ∧ OnlyChanges [.regs, .pc] s t :=
  ⟨(s.setV x b).advance, ho, s.setV_getV x b, rfl, s.setV_advance_onlyChanges x b⟩

/-! ### The statements -/

/-- Settles O23: each instruction is one register write, of `NN` or of the sum modulo 256. -/
theorem immediateLoadAndAdd : Obligations.ImmediateLoadAndAdd := by
  intro x nn s
  refine ⟨State.exists_of_eq_setV_advance (exec_ldByte x nn s), ?_⟩
  obtain ⟨t, ht, hregs, hpc, hframe⟩ := State.exists_of_eq_setV_advance (exec_addByte x nn s)
  have hsum : (t.getV x).toNat = ((s.getV x).toNat + nn.toNat) % 256 := by
    rw [hregs x, if_pos rfl, addBytes_toNat]
  have hothers : ∀ r, r ≠ x → t.getV r = s.getV r := fun r hr => (hregs r).trans (if_neg hr)
  exact ⟨t, ht, hsum, hothers, hpc, hframe⟩

/-- Settles O24: each instruction is one register write; VF is a register like the others. -/
theorem moveAndLogic : Obligations.MoveAndLogic := fun x y s =>
  ⟨State.exists_of_eq_setV_advance (exec_ldReg x y s), State.exists_of_eq_setV_advance (exec_orReg x y s),
    State.exists_of_eq_setV_advance (exec_andReg x y s), State.exists_of_eq_setV_advance (exec_xorReg x y s)⟩

end Sys2Proof.Machine
end

section
/-! The address register: the immediate load of `I` (rule R130). -/

namespace Sys2Proof.Machine

/-! ### `I` written -/

/-- The frame of a write of `I` and the advance. -/
theorem State.setI_advance_onlyChanges (s : State) (w : Word) : OnlyChanges [.index, .pc] s (s.setI w).advance := by
  intro p hp
  cases p with
  | index | pc => simp at hp
  | _ => simp [Part.same]

/-! ### The statement -/

/-- Settles O30: the zero-extended `NNN` is what is written to `I`, and the instruction then advances. -/
theorem loadIndexRegister : Obligations.LoadIndexRegister := fun nnn s =>
  ⟨(s.setI (immAddress nnn)).advance, exec_ldI nnn s, immAddress_toNat nnn, rfl, s.setI_advance_onlyChanges _⟩

end Sys2Proof.Machine
end

section
/-! The display: the clear of the screen (rule R140). -/

namespace Sys2Proof.Machine

/-! ### The framebuffer written -/

/-- The frame of a write of the framebuffer with `REDRAW`, and the advance. -/
theorem State.setFb_setRedraw_advance_onlyChanges (s : State) (f : Screen) (b : Bool) :
    OnlyChanges [.screen, .redraw, .pc] s ((s.setFb f).setRedraw b).advance := by
  intro p hp
  cases p with
  | screen | redraw | pc => simp at hp
  | _ => simp [Part.same]

/-! ### The statement -/

/-- Settles O37: the blank screen is what is written to the framebuffer, whatever stood there, and the instruction then
advances. -/
theorem clearScreen : Obligations.ClearScreen := fun s =>
  ⟨((s.setFb Screen.blank).setRedraw true).advance, exec_cls s, Screen.pixel_blank, rfl, rfl,
    s.setFb_setRedraw_advance_onlyChanges Screen.blank true⟩

end Sys2Proof.Machine
end

section
/-! Frames: the frame of a state update composes with the frame of the next one, so that the frame of an instruction is read off
the updates it is made of. -/

namespace Sys2Proof.Machine

/-! ### Composition -/

theorem Part.same_refl (p : Part) (s : State) : p.same s s := by cases p <;> simp [Part.same]

theorem Part.same_symm {p : Part} {s t : State} (h : p.same s t) : p.same t s := by cases p <;> simp_all [Part.same]

theorem Part.same_trans {p : Part} {s t u : State} (h : p.same s t) (h' : p.same t u) : p.same s u := by
  cases p <;> simp_all [Part.same]

@[simp] theorem OnlyChanges.refl (ps : List Part) (s : State) : OnlyChanges ps s s := fun p _ => p.same_refl s

/-- A frame may name more parts. -/
theorem OnlyChanges.mono {ps qs : List Part} {s t : State} (h : OnlyChanges ps s t) (hsub : ps ⊆ qs) : OnlyChanges qs s t :=
  fun p hp => h p (mt (@hsub p) hp)

theorem OnlyChanges.trans {ps : List Part} {s t u : State} (h : OnlyChanges ps s t) (h' : OnlyChanges ps t u) :
    OnlyChanges ps s u := fun p hp => Part.same_trans (h p hp) (h' p hp)

/-- An update of a part that may change is of no account to a frame. -/
theorem onlyChanges_update_iff {ps : List Part} {p : Part} {s t u : State} (hp : p ∈ ps) (hu : ∀ q, q ≠ p → q.same t u) :
    OnlyChanges ps s u ↔ OnlyChanges ps s t := by
  have hother : ∀ q, q ∉ ps → q.same t u := fun q hq => hu q fun e => hq (e ▸ hp)
  exact ⟨fun h q hq => Part.same_trans (h q hq) (Part.same_symm (hother q hq)),
    fun h q hq => Part.same_trans (h q hq) (hother q hq)⟩

/-! ### One frame per update

Each is a rule for `simp`: the part is looked up in the list, and what is left is the frame of the state before. -/

section
variable {ps : List Part} {s t : State}

@[simp] theorem onlyChanges_setV_iff (hp : .regs ∈ ps) (x : RegIdx) (b : Byte) :
    OnlyChanges ps s (t.setV x b) ↔ OnlyChanges ps s t :=
  onlyChanges_update_iff hp fun q hq => by cases q <;> simp_all [Part.same]

@[simp] theorem onlyChanges_setRegs_iff (hp : .regs ∈ ps) (v : Regs) :
    OnlyChanges ps s (t.setRegs v) ↔ OnlyChanges ps s t :=
  onlyChanges_update_iff hp fun q hq => by cases q <;> simp_all [Part.same]

@[simp] theorem onlyChanges_setI_iff (hp : .index ∈ ps) (w : Word) :
    OnlyChanges ps s (t.setI w) ↔ OnlyChanges ps s t :=
  onlyChanges_update_iff hp fun q hq => by cases q <;> simp_all [Part.same]

@[simp] theorem onlyChanges_setPc_iff (hp : .pc ∈ ps) (w : Word) :
    OnlyChanges ps s (t.setPc w) ↔ OnlyChanges ps s t :=
  onlyChanges_update_iff hp fun q hq => by cases q <;> simp_all [Part.same]

@[simp] theorem onlyChanges_setSp_iff (hp : .stack ∈ ps) (n : Fin 17) :
    OnlyChanges ps s (t.setSp n) ↔ OnlyChanges ps s t :=
  onlyChanges_update_iff hp fun q hq => by cases q <;> simp_all [Part.same]

@[simp] theorem onlyChanges_setStk_iff (hp : .stack ∈ ps) (k : Vector Word 16) :
    OnlyChanges ps s (t.setStk k) ↔ OnlyChanges ps s t :=
  onlyChanges_update_iff hp fun q hq => by cases q <;> simp_all [Part.same]

@[simp] theorem onlyChanges_setDt_iff (hp : .delay ∈ ps) (b : Byte) :
    OnlyChanges ps s (t.setDt b) ↔ OnlyChanges ps s t :=
  onlyChanges_update_iff hp fun q hq => by cases q <;> simp_all [Part.same]

@[simp] theorem onlyChanges_setSt_iff (hp : .sound ∈ ps) (b : Byte) :
    OnlyChanges ps s (t.setSt b) ↔ OnlyChanges ps s t :=
  onlyChanges_update_iff hp fun q hq => by cases q <;> simp_all [Part.same]

@[simp] theorem onlyChanges_setFb_iff (hp : .screen ∈ ps) (f : Screen) :
    OnlyChanges ps s (t.setFb f) ↔ OnlyChanges ps s t :=
  onlyChanges_update_iff hp fun q hq => by cases q <;> simp_all [Part.same]

@[simp] theorem onlyChanges_setKey_iff (hp : .keys ∈ ps) (k : Vector Bool 16) :
    OnlyChanges ps s (t.setKey k) ↔ OnlyChanges ps s t :=
  onlyChanges_update_iff hp fun q hq => by cases q <;> simp_all [Part.same]

@[simp] theorem onlyChanges_setWait_iff (hp : .wait ∈ ps) (w : Wait) :
    OnlyChanges ps s (t.setWait w) ↔ OnlyChanges ps s t :=
  onlyChanges_update_iff hp fun q hq => by cases q <;> simp_all [Part.same]

@[simp] theorem onlyChanges_setRedraw_iff (hp : .redraw ∈ ps) (b : Bool) :
    OnlyChanges ps s (t.setRedraw b) ↔ OnlyChanges ps s t :=
  onlyChanges_update_iff hp fun q hq => by cases q <;> simp_all [Part.same]

@[simp] theorem onlyChanges_setFault_iff (hp : .fault ∈ ps) (c : FaultCode) :
    OnlyChanges ps s (t.setFault c) ↔ OnlyChanges ps s t :=
  onlyChanges_update_iff hp fun q hq => by cases q <;> simp_all [Part.same]

@[simp] theorem onlyChanges_setMem_iff (hp : .memory ∈ ps) (m : Memory) :
    OnlyChanges ps s (t.setMem m) ↔ OnlyChanges ps s t :=
  onlyChanges_update_iff hp fun q hq => by cases q <;> simp_all [Part.same]

@[simp] theorem onlyChanges_setRndIn_iff (hp : .random ∈ ps) (b : Option Byte) :
    OnlyChanges ps s (t.setRndIn b) ↔ OnlyChanges ps s t :=
  onlyChanges_update_iff hp fun q hq => by cases q <;> simp_all [Part.same]

@[simp] theorem onlyChanges_setDraws_iff (hp : .random ∈ ps) (n : Nat) :
    OnlyChanges ps s (t.setDraws n) ↔ OnlyChanges ps s t :=
  onlyChanges_update_iff hp fun q hq => by cases q <;> simp_all [Part.same]

@[simp] theorem onlyChanges_advance_iff (hp : .pc ∈ ps) : OnlyChanges ps s t.advance ↔ OnlyChanges ps s t :=
  onlyChanges_setPc_iff hp _

@[simp] theorem onlyChanges_skipIf_iff (hp : .pc ∈ ps) (c : Bool) : OnlyChanges ps s (t.skipIf c) ↔ OnlyChanges ps s t := by
  cases c <;> exact onlyChanges_setPc_iff hp _

@[simp] theorem onlyChanges_setResultAndFlag_iff (hp : .regs ∈ ps) (x : RegIdx) (b : Byte) (c : Bool) :
    OnlyChanges ps s (t.setResultAndFlag x b c) ↔ OnlyChanges ps s t := by
  simp [State.setResultAndFlag, hp]

@[simp] theorem onlyChanges_drawn_iff (hp : .random ∈ ps) : OnlyChanges ps s t.drawn ↔ OnlyChanges ps s t := by
  simp [State.drawn, hp]

@[simp] theorem onlyChanges_timerTick_iff (hd : .delay ∈ ps) (hs : .sound ∈ ps) :
    OnlyChanges ps s t.timerTick ↔ OnlyChanges ps s t := by
  simp [State.timerTick, hd, hs]

end

end Sys2Proof.Machine
end

section
/-! Encoding: the round trips of the decoder and the encoder, the unknown words and the opcode map (rules R75 to R77). -/

namespace Sys2Proof

open Laws

/-! ### A masked word, by its fields -/

theorem formatXB_inj {g g' : Nibble} {x x' : RegIdx} {b b' : Byte} :
    formatXB g x b = formatXB g' x' b' ↔ g = g' ∧ x = x' ∧ b = b' := by
  refine ⟨fun h => ⟨?_, ?_, ?_⟩, fun ⟨hg, hx, hb⟩ => by rw [hg, hx, hb]⟩
  · simpa using congrArg fieldG h
  · simpa using congrArg fieldX h
  · simpa using congrArg fieldNN h

theorem formatXYN_inj {g g' : Nibble} {x x' y y' : RegIdx} {n n' : Nibble} :
    formatXYN g x y n = formatXYN g' x' y' n' ↔ g = g' ∧ x = x' ∧ y = y' ∧ n = n' := by
  refine ⟨fun h => ⟨?_, ?_, ?_, ?_⟩, fun ⟨hg, hx, hy, hn⟩ => by rw [hg, hx, hy, hn]⟩
  · simpa using congrArg fieldG h
  · simpa using congrArg fieldX h
  · simpa using congrArg fieldY h
  · simpa using congrArg fieldN h

/-- The group mask of rule R75 keeps the group. -/
theorem and_groupMask (w : Word) : w &&& 0xF000 = formatXB (fieldG w) 0 0 := by
  conv_lhs => rw [word_eq_formatXB w]
  exact formatXB_mask _ _ _

/-- The mask of groups 0x0, 0xE and 0xF keeps the group and the low byte. -/
theorem and_groupByteMask (w : Word) : w &&& 0xF0FF = formatXB (fieldG w) 0 (fieldNN w) := by
  conv_lhs => rw [word_eq_formatXB w]
  exact formatXB_maskByte _ _ _

/-- The mask of group 0x8 keeps the group and the low nibble. -/
theorem and_groupNibbleMask (w : Word) : w &&& 0xF00F = formatXYN (fieldG w) 0 0 (fieldN w) := by
  conv_lhs => rw [word_eq_formatXYN w]
  exact formatXYN_maskNibble _ _ _ _

/-- The bits the two register skips do not ignore. -/
theorem and_dropNibbleMask (w : Word) : w &&& 0xFFF0#16 = formatXYN (fieldG w) (fieldX w) (fieldY w) 0 := by
  have hm : 0xFFF0#16 = (0xF : Nibble) ++ (0xF : RegIdx) ++ (0xF : RegIdx) ++ (0 : Nibble) := rfl
  conv_lhs => rw [word_eq_formatXYN w]
  unfold formatXYN
  rw [hm, BitVec.and_append, BitVec.and_append, BitVec.and_append]
  simp [nibble_and_ones]

/-- The selector of groups 0x0, 0xE and 0xF. -/
theorem and_byteMask (w : Word) : w &&& 0x00FF = formatXB 0 0 (fieldNN w) := by
  have hm : (0x00FF : Word) = 0xF0FF &&& 0x00FF := rfl
  rw [hm, ← BitVec.and_assoc, and_groupByteMask, formatXB]
  have hm' : (0x00FF : Word) = (0 : Nibble) ++ (0 : RegIdx) ++ (0xFF : Byte) := rfl
  rw [hm', BitVec.and_append, BitVec.and_append]
  simp [formatXB, byte_and_ones]

/-- The selector of group 0x8. -/
theorem and_nibbleMask (w : Word) : w &&& 0x000F = formatXYN 0 0 0 (fieldN w) := by
  have hm : (0x000F : Word) = (0 : Nibble) ++ (0 : RegIdx) ++ (0 : RegIdx) ++ (0xF : Nibble) := rfl
  conv_lhs => rw [word_eq_formatXYN w]
  unfold formatXYN
  rw [hm, BitVec.and_append, BitVec.and_append, BitVec.and_append]
  simp [nibble_and_ones]

/-! ### The unknown words, by their fields -/

/-- The group test of rule R77's table. -/
theorem and_groupMask_eq_iff {w : Word} (g : Nibble) : w &&& 0xF000 = formatXB g 0 0 ↔ fieldG w = g := by
  rw [and_groupMask, formatXB_inj]; simp

/-- A selector byte of rule R77's table. -/
theorem and_byteMask_mem_iff {w : Word} (l : List Byte) : w &&& 0x00FF ∈ l.map (formatXB 0 0) ↔ fieldNN w ∈ l := by
  rw [and_byteMask]
  exact List.mem_map_of_injective fun _ _ h => (formatXB_inj.1 h).2.2

/-- A selector nibble of rule R77's table. -/
theorem and_nibbleMask_mem_iff {w : Word} (l : List Nibble) :
    w &&& 0x000F ∈ l.map (formatXYN 0 0 0) ↔ fieldN w ∈ l := by
  rw [and_nibbleMask]
  exact List.mem_map_of_injective fun _ _ h => (formatXYN_inj.1 h).2.2.2

theorem unknownGroup0_iff {w : Word} :
    unknownGroup0 w = true ↔ fieldG w = 0x0 ∧ fieldNN w ∉ ([0xE0, 0xEE] : List Byte) := by
  rw [← and_groupMask_eq_iff, ← and_byteMask_mem_iff]
  simp [unknownGroup0, formatXB]

theorem unknownGroup8_iff {w : Word} :
    unknownGroup8 w = true ↔ fieldG w = 0x8 ∧ fieldN w ∈ ([0x8, 0x9, 0xA, 0xB, 0xC, 0xD, 0xF] : List Nibble) := by
  rw [← and_groupMask_eq_iff, ← and_nibbleMask_mem_iff]
  simp [unknownGroup8, formatXB, formatXYN]

theorem unknownGroupE_iff {w : Word} :
    unknownGroupE w = true ↔ fieldG w = 0xE ∧ fieldNN w ∉ ([0x9E, 0xA1] : List Byte) := by
  rw [← and_groupMask_eq_iff, ← and_byteMask_mem_iff]
  simp [unknownGroupE, formatXB]

theorem unknownGroupF_iff {w : Word} :
    unknownGroupF w = true ↔
      fieldG w = 0xF ∧ fieldNN w ∉ ([0x07, 0x0A, 0x15, 0x18, 0x1E, 0x29, 0x33, 0x55, 0x65] : List Byte) := by
  rw [← and_groupMask_eq_iff, ← and_byteMask_mem_iff]
  simp [unknownGroupF, formatXB]

/-! ### The decoder's branches -/

theorem decode_group0 {w : Word} (h : fieldG w = 0x0) : decode w = decodeGroup0 w := by simp [decode, h]

theorem decode_group8 {w : Word} (h : fieldG w = 0x8) : decode w = decodeGroup8 w := by simp [decode, h]

theorem decode_groupE {w : Word} (h : fieldG w = 0xE) : decode w = decodeGroupE w := by simp [decode, h]

theorem decode_groupF {w : Word} (h : fieldG w = 0xF) : decode w = decodeGroupF w := by simp [decode, h]

theorem nibble_mem_all (g : Nibble) :
    g ∈ ([0x0, 0x1, 0x2, 0x3, 0x4, 0x5, 0x6, 0x7, 0x8, 0x9, 0xA, 0xB, 0xC, 0xD, 0xE, 0xF] : List Nibble) := by
  revert g; decide

/-- The twelve groups of one row each, and the four with a selector (rules R74, R75). -/
theorem decode_cases (w : Word) :
    (fieldG w = 0x0#4 ∨ fieldG w = 0x8#4 ∨ fieldG w = 0xE#4 ∨ fieldG w = 0xF#4) ∨
    (fieldG w = 0x1#4 ∧ decode w = .jp (fieldNNN w)) ∨ (fieldG w = 0x2#4 ∧ decode w = .call (fieldNNN w)) ∨
    (fieldG w = 0x3#4 ∧ decode w = .seByte (fieldX w) (fieldNN w)) ∨
    (fieldG w = 0x4#4 ∧ decode w = .sneByte (fieldX w) (fieldNN w)) ∨
    (fieldG w = 0x5#4 ∧ decode w = .seReg (fieldX w) (fieldY w)) ∨
    (fieldG w = 0x6#4 ∧ decode w = .ldByte (fieldX w) (fieldNN w)) ∨
    (fieldG w = 0x7#4 ∧ decode w = .addByte (fieldX w) (fieldNN w)) ∨
    (fieldG w = 0x9#4 ∧ decode w = .sneReg (fieldX w) (fieldY w)) ∨
    (fieldG w = 0xA#4 ∧ decode w = .ldI (fieldNNN w)) ∨ (fieldG w = 0xB#4 ∧ decode w = .jpV0 (fieldNNN w)) ∨
    (fieldG w = 0xC#4 ∧ decode w = .rnd (fieldX w) (fieldNN w)) ∨
    (fieldG w = 0xD#4 ∧ decode w = .drw (fieldX w) (fieldY w) (fieldN w)) := by
  have hg := nibble_mem_all (fieldG w)
  simp only [List.mem_cons, List.not_mem_nil, or_false] at hg
  generalize hd : decode w = i
  rcases hg with h | h | h | h | h | h | h | h | h | h | h | h | h | h | h | h <;>
    simp only [decode, h] at hd <;> subst hd <;> simp [h]

theorem ite_eq_iff_of_ne {c : Prop} [Decidable c] {a b u : Instr} (h : a ≠ u) :
    (if c then a else b) = u ↔ ¬ c ∧ b = u := by
  split <;> simp_all

theorem decodeGroup0_eq_unknown_iff {v w : Word} :
    decodeGroup0 w = .unknown v ↔ fieldNN w ∉ ([0xE0, 0xEE] : List Byte) ∧ v = w := by
  simp [decodeGroup0, ite_eq_iff_of_ne, and_assoc, @eq_comm _ w]

theorem decodeGroup8_eq_unknown_iff {v w : Word} :
    decodeGroup8 w = .unknown v ↔
      fieldN w ∉ ([0x0, 0x1, 0x2, 0x3, 0x4, 0x5, 0x6, 0x7, 0xE] : List Nibble) ∧ v = w := by
  simp [decodeGroup8, ite_eq_iff_of_ne, and_assoc, @eq_comm _ w]

theorem decodeGroupE_eq_unknown_iff {v w : Word} :
    decodeGroupE w = .unknown v ↔ fieldNN w ∉ ([0x9E, 0xA1] : List Byte) ∧ v = w := by
  simp [decodeGroupE, ite_eq_iff_of_ne, and_assoc, @eq_comm _ w]

theorem decodeGroupF_eq_unknown_iff {v w : Word} :
    decodeGroupF w = .unknown v ↔
      fieldNN w ∉ ([0x07, 0x0A, 0x15, 0x18, 0x1E, 0x29, 0x33, 0x55, 0x65] : List Byte) ∧ v = w := by
  simp [decodeGroupF, ite_eq_iff_of_ne, and_assoc, @eq_comm _ w]

/-- A nibble that selects no row of group 0x8 stands in rule R77's table. -/
theorem group8_selectors (n : Nibble) :
    n ∉ ([0x0, 0x1, 0x2, 0x3, 0x4, 0x5, 0x6, 0x7, 0xE] : List Nibble) ↔
      n ∈ ([0x8, 0x9, 0xA, 0xB, 0xC, 0xD, 0xF] : List Nibble) := by
  revert n; decide

/-- The decoder's unknown words are those of rule R77's table. -/
theorem decode_eq_unknown_iff {v w : Word} : decode w = .unknown v ↔ unknownWord w = true ∧ v = w := by
  simp only [unknownWord, Bool.or_eq_true, unknownGroup0_iff, unknownGroup8_iff, unknownGroupE_iff, unknownGroupF_iff,
    ← group8_selectors]
  rcases decode_cases w with (h | h | h | h) | hrow
  · rw [decode_group0 h, decodeGroup0_eq_unknown_iff]; simp [h]
  · rw [decode_group8 h, decodeGroup8_eq_unknown_iff]; simp [h]
  · rw [decode_groupE h, decodeGroupE_eq_unknown_iff]; simp [h]
  · rw [decode_groupF h, decodeGroupF_eq_unknown_iff]; simp [h]
  · rcases hrow with
        ⟨h, e⟩ | ⟨h, e⟩ | ⟨h, e⟩ | ⟨h, e⟩ | ⟨h, e⟩ | ⟨h, e⟩ |
        ⟨h, e⟩ | ⟨h, e⟩ | ⟨h, e⟩ | ⟨h, e⟩ | ⟨h, e⟩ | ⟨h, e⟩ <;>
      simp [h, e]

/-! ### The round trips -/

/-- Settles O1: each constructor's word has its group, its selector and its operands as fields; an unknown word carries itself. -/
theorem decodeEncodeRoundTrip : Obligations.DecodeEncodeRoundTrip := by
  intro i hi
  cases i with
  | unknown w => exact decode_eq_unknown_iff.2 ⟨hi, rfl⟩
  | _ => simp [encode, decode, decodeGroup0, decodeGroup8, decodeGroupE, decodeGroupF]

/-- Settles O3: the decoder's branch for no selector is rule R77's table, group by group. -/
theorem unknownWordsAreTheListedOnes : Obligations.UnknownWordsAreTheListedOnes := fun w =>
  ⟨by simp [decode_eq_unknown_iff], fun _ h => (decode_eq_unknown_iff.1 h).2⟩

/-- The bits of a word the decoder does not ignore when it selects row `n` (rule R76). -/
def decodedBits (n : Nat) : Word :=
  if n = 1 ∨ n = 2 then 0xF0FF else if n = 7 ∨ n = 19 then 0xFFF0 else 0xFFFF

theorem formatA_of_fields {w : Word} {g : Nibble} (hg : fieldG w = g) : formatA g (fieldNNN w) = w :=
  hg ▸ (word_eq_formatA w).symm

theorem formatXB_of_fields {w : Word} {g : Nibble} {b : Byte} (hg : fieldG w = g) (hb : fieldNN w = b) :
    formatXB g (fieldX w) b = w := hg ▸ hb ▸ (word_eq_formatXB w).symm

theorem formatXYN_of_fields {w : Word} {g n : Nibble} (hg : fieldG w = g) (hn : fieldN w = n) :
    formatXYN g (fieldX w) (fieldY w) n = w := hg ▸ hn ▸ (word_eq_formatXYN w).symm

theorem and_ones (w : Word) : w &&& 0xFFFF#16 = w := BitVec.and_allOnes

theorem encode_decodeGroup0 {w : Word} (h : fieldG w = 0x0) :
    encode (decodeGroup0 w) = w &&& decodedBits (decodeGroup0 w).rowNumber := by
  unfold decodeGroup0
  split_ifs with hsel hsel
  · exact (h ▸ hsel ▸ and_groupByteMask w).symm
  · exact (h ▸ hsel ▸ and_groupByteMask w).symm
  · exact (and_ones w).symm

theorem encode_decodeGroup8 {w : Word} (h : fieldG w = 0x8) :
    encode (decodeGroup8 w) = w &&& decodedBits (decodeGroup8 w).rowNumber := by
  simp only [decodeGroup8]
  split_ifs with hsel hsel hsel hsel hsel hsel hsel hsel hsel
  case neg => exact (and_ones w).symm
  all_goals exact (formatXYN_of_fields h hsel).trans (and_ones w).symm

theorem encode_decodeGroupE {w : Word} (h : fieldG w = 0xE) :
    encode (decodeGroupE w) = w &&& decodedBits (decodeGroupE w).rowNumber := by
  unfold decodeGroupE
  split_ifs with hsel hsel
  case neg => exact (and_ones w).symm
  all_goals exact (formatXB_of_fields h hsel).trans (and_ones w).symm

theorem encode_decodeGroupF {w : Word} (h : fieldG w = 0xF) :
    encode (decodeGroupF w) = w &&& decodedBits (decodeGroupF w).rowNumber := by
  simp only [decodeGroupF]
  split_ifs with hsel hsel hsel hsel hsel hsel hsel hsel hsel
  case neg => exact (and_ones w).symm
  all_goals exact (formatXB_of_fields h hsel).trans (and_ones w).symm

/-- Encoding what was decoded loses the ignored bits only. -/
theorem encode_decode (w : Word) : encode (decode w) = w &&& decodedBits (decode w).rowNumber := by
  rcases decode_cases w with (h | h | h | h) | hrow
  · rw [decode_group0 h, encode_decodeGroup0 h]
  · rw [decode_group8 h, encode_decodeGroup8 h]
  · rw [decode_groupE h, encode_decodeGroupE h]
  · rw [decode_groupF h, encode_decodeGroupF h]
  · rcases hrow with
        ⟨h, e⟩ | ⟨h, e⟩ | ⟨h, e⟩ | ⟨h, e⟩ | ⟨h, e⟩ | ⟨h, e⟩ |
        ⟨h, e⟩ | ⟨h, e⟩ | ⟨h, e⟩ | ⟨h, e⟩ | ⟨h, e⟩ | ⟨h, e⟩ <;>
      simp [h, e, encode, Instr.rowNumber, decodedBits, formatA_of_fields h, formatXB_of_fields h rfl,
        formatXYN_of_fields h rfl, and_ones, and_dropNibbleMask]

/-- Settles O4: the ignored bits are those the encoder writes as zeros. -/
theorem encodeOfDecodeDropsIgnoredBitsOnly : Obligations.EncodeOfDecodeDropsIgnoredBitsOnly := by
  intro w
  rw [encode_decode, decodedBits]
  split_ifs
  · rfl
  · rfl
  · exact and_ones w

/-! ### The opcode map -/

theorem encodeInRow (i : Instr) : EncodeInRow.Statement i := by
  cases i with
  | cls => exact EncodeInRow.cls
  | ret => exact EncodeInRow.ret
  | jp nnn => exact EncodeInRow.jp nnn
  | call nnn => exact EncodeInRow.call nnn
  | seByte x nn => exact EncodeInRow.seByte x nn
  | sneByte x nn => exact EncodeInRow.sneByte x nn
  | seReg x y => exact EncodeInRow.seReg x y
  | ldByte x nn => exact EncodeInRow.ldByte x nn
  | addByte x nn => exact EncodeInRow.addByte x nn
  | ldReg x y => exact EncodeInRow.ldReg x y
  | orReg x y => exact EncodeInRow.orReg x y
  | andReg x y => exact EncodeInRow.andReg x y
  | xorReg x y => exact EncodeInRow.xorReg x y
  | addReg x y => exact EncodeInRow.addReg x y
  | subReg x y => exact EncodeInRow.subReg x y
  | shrReg x y => exact EncodeInRow.shrReg x y
  | subnReg x y => exact EncodeInRow.subnReg x y
  | shlReg x y => exact EncodeInRow.shlReg x y
  | sneReg x y => exact EncodeInRow.sneReg x y
  | ldI nnn => exact EncodeInRow.ldI nnn
  | jpV0 nnn => exact EncodeInRow.jpV0 nnn
  | rnd x nn => exact EncodeInRow.rnd x nn
  | drw x y n => exact EncodeInRow.drw x y n
  | skp x => exact EncodeInRow.skp x
  | sknp x => exact EncodeInRow.sknp x
  | ldVxDT x => exact EncodeInRow.ldVxDT x
  | ldVxK x => exact EncodeInRow.ldVxK x
  | ldDTVx x => exact EncodeInRow.ldDTVx x
  | ldSTVx x => exact EncodeInRow.ldSTVx x
  | addI x => exact EncodeInRow.addI x
  | ldF x => exact EncodeInRow.ldF x
  | ldB x => exact EncodeInRow.ldB x
  | storeRegs x => exact EncodeInRow.storeRegs x
  | loadRegs x => exact EncodeInRow.loadRegs x
  | unknown w => exact EncodeInRow.unknown w

/-- The mask of a row keeps no bit the decoder ignores in that row. -/
theorem decodedBits_and_mask : ∀ row ∈ opcodeRows, decodedBits row.number &&& row.mask = row.mask := by decide

theorem opcodeRows_number : ∀ row ∈ opcodeRows, row.number ≠ 35 := by decide

/-- The rows have numbers of their own. -/
theorem opcodeRows_ext : ∀ row ∈ opcodeRows, ∀ row' ∈ opcodeRows, row.number = row'.number → row = row' := by decide

/-- The canonical word of an instruction satisfies the mask and match of the row with its number. -/
theorem encode_and_mask {i : Instr} {row : OpcodeRow} (hrow : row ∈ opcodeRows) (h : i.rowNumber = row.number) :
    encode i &&& row.mask = row.code := by
  have hin := encodeInRow i
  unfold EncodeInRow.Statement at hin
  split at hin
  · next found hfind =>
    have hnum : found.number = i.rowNumber := by simpa using List.find?_some hfind
    rwa [opcodeRows_ext found (List.mem_of_find?_eq_some hfind) row hrow (hnum.trans h)] at hin
  · exact absurd (h.symm.trans hin) (opcodeRows_number row hrow)

/-- A word satisfies the mask and match of the row of what it decodes to. -/
theorem matches_row_of_decode {w : Word} {row : OpcodeRow} (hrow : row ∈ opcodeRows)
    (h : (decode w).rowNumber = row.number) : w &&& row.mask = row.code := by
  rw [← encode_and_mask hrow h, encode_decode, h, BitVec.and_assoc, decodedBits_and_mask row hrow]

/-- The rows of the opcode map are apart: two rows whose matches agree on the bits of both masks are one row. -/
theorem opcodeRows_apart : ∀ row ∈ opcodeRows, ∀ row' ∈ opcodeRows,
    row.code &&& row'.mask = row'.code &&& row.mask → row = row' := by
  decide

theorem row_eq_of_matches {w : Word} {row row' : OpcodeRow} (hrow : row ∈ opcodeRows) (hrow' : row' ∈ opcodeRows)
    (h : w &&& row.mask = row.code) (h' : w &&& row'.mask = row'.code) : row = row' := by
  refine opcodeRows_apart row hrow row' hrow' ?_
  rw [← h, ← h', BitVec.and_assoc, BitVec.and_assoc, BitVec.and_comm row.mask]

theorem opcodeRows_group : ∀ row ∈ opcodeRows, fieldG row.mask = 0xF := by decide

theorem opcodeRows_group0 : ∀ row ∈ opcodeRows, fieldG row.code = 0x0 →
    row.mask = 0xF0FF ∧ fieldNN row.code ∈ ([0xE0, 0xEE] : List Byte) := by decide

theorem opcodeRows_group8 : ∀ row ∈ opcodeRows, fieldG row.code = 0x8 →
    row.mask = 0xF00F ∧ fieldN row.code ∉ ([0x8, 0x9, 0xA, 0xB, 0xC, 0xD, 0xF] : List Nibble) := by decide

theorem opcodeRows_groupE : ∀ row ∈ opcodeRows, fieldG row.code = 0xE →
    row.mask = 0xF0FF ∧ fieldNN row.code ∈ ([0x9E, 0xA1] : List Byte) := by decide

theorem opcodeRows_groupF : ∀ row ∈ opcodeRows, fieldG row.code = 0xF →
    row.mask = 0xF0FF ∧
      fieldNN row.code ∈ ([0x07, 0x0A, 0x15, 0x18, 0x1E, 0x29, 0x33, 0x55, 0x65] : List Byte) := by decide

theorem fieldG_of_matches {w : Word} {row : OpcodeRow} (hrow : row ∈ opcodeRows) (h : w &&& row.mask = row.code) :
    fieldG row.code = fieldG w := by
  rw [← h, fieldG, BitVec.extractLsb'_and, ← fieldG, ← fieldG, opcodeRows_group row hrow]
  exact nibble_and_ones _

theorem fieldNN_of_matches {w : Word} {row : OpcodeRow} (hmask : row.mask = 0xF0FF) (h : w &&& row.mask = row.code) :
    fieldNN row.code = fieldNN w := by
  rw [← h, hmask, and_groupByteMask, fieldNN_formatXB]

theorem fieldN_of_matches {w : Word} {row : OpcodeRow} (hmask : row.mask = 0xF00F) (h : w &&& row.mask = row.code) :
    fieldN row.code = fieldN w := by
  rw [← h, hmask, and_groupNibbleMask, fieldN_formatXYN]

/-- The words of rule R77's table satisfy no row. -/
theorem unknownWord_matches_no_row {w : Word} (hw : unknownWord w = true) {row : OpcodeRow} (hrow : row ∈ opcodeRows) :
    w &&& row.mask ≠ row.code := by
  intro h
  have hgroup := fieldG_of_matches hrow h
  simp only [unknownWord, Bool.or_eq_true, unknownGroup0_iff, unknownGroup8_iff, unknownGroupE_iff, unknownGroupF_iff] at hw
  rcases hw with ((⟨hg, hsel⟩ | ⟨hg, hsel⟩) | ⟨hg, hsel⟩) | ⟨hg, hsel⟩
  · obtain ⟨hmask, hrows⟩ := opcodeRows_group0 row hrow (hgroup.trans hg)
    exact hsel (fieldNN_of_matches hmask h ▸ hrows)
  · obtain ⟨hmask, hrows⟩ := opcodeRows_group8 row hrow (hgroup.trans hg)
    exact hrows (fieldN_of_matches hmask h ▸ hsel)
  · obtain ⟨hmask, hrows⟩ := opcodeRows_groupE row hrow (hgroup.trans hg)
    exact hsel (fieldNN_of_matches hmask h ▸ hrows)
  · obtain ⟨hmask, hrows⟩ := opcodeRows_groupF row hrow (hgroup.trans hg)
    exact hsel (fieldNN_of_matches hmask h ▸ hrows)

/-- Every instruction but `unknown` has a row. -/
theorem exists_row (i : Instr) : (∃ row ∈ opcodeRows, row.number = i.rowNumber) ∨ ∃ w, i = .unknown w := by
  have hnumbers : opcodeRows.map OpcodeRow.number = List.range' 1 34 := rfl
  have hmem : i.rowNumber ∈ opcodeRows.map OpcodeRow.number ∨ ∃ w, i = .unknown w := by
    rw [hnumbers]
    cases i with
    | unknown w => exact .inr ⟨w, rfl⟩
    | _ => exact .inl (by simp [Instr.rowNumber])
  exact hmem.imp_left List.mem_map.1

/-- Settles O2: a decoded word satisfies the row of its instruction, the rows are apart, and an unknown word satisfies none. -/
theorem decodeSelectsMatchingRow : Obligations.DecodeSelectsMatchingRow := by
  intro w
  rcases exists_row (decode w) with ⟨own, hown, hnum⟩ | ⟨v, hv⟩
  · have hmatch := matches_row_of_decode hown hnum.symm
    refine ⟨fun row hrow => ⟨fun h => ?_, matches_row_of_decode hrow⟩, fun hnone => absurd hmatch (hnone own hown)⟩
    rw [← hnum, row_eq_of_matches hown hrow hmatch h]
  · obtain ⟨hw, rfl⟩ := decode_eq_unknown_iff.1 hv
    exact ⟨fun row hrow => ⟨fun h => absurd h (unknownWord_matches_no_row hw hrow), matches_row_of_decode hrow⟩,
      fun _ => hv⟩

/-- Settles O5: the words are evaluated by the decoder. -/
theorem sampleWordsDecode : Obligations.SampleWordsDecode := by
  unfold Obligations.SampleWordsDecode
  decide

end Sys2Proof
end

section
/-! The executor as a whole: every instruction answers, raises its one fault under its one condition, and otherwise changes the
parts of the summary table only (`10_state.md`; rules R171, R175, R195). -/

namespace Sys2Proof.Machine

/-! ### What an instruction answers -/

/-- The next state of an instruction that cannot fault is read off its meaning. -/
theorem eq_of_next_eq {t u : State} (h : (Host.Outcome.next u : Result) = .next t) : t = u := by
  injection h with h; exact h.symm

theorem accessing_answers (base count : Nat) (s t : State) : ∃ u, accessing base count s t = .next u := by
  unfold accessing; split <;> exact ⟨_, rfl⟩

/-- Every instruction answers a next state: neither `Host.Outcome.fault` nor `Host.Outcome.refused` is ever answered. -/
theorem exec_answers (i : Instr) (s : State) : ∃ t, exec i s = .next t := by
  cases i with
  | ret => rw [exec_ret, execRet]; split <;> exact ⟨_, rfl⟩
  | call nnn => rw [exec_call, execCall]; split <;> exact ⟨_, rfl⟩
  | skp x => rw [exec_skp, execSkp]; split <;> exact ⟨_, rfl⟩
  | sknp x => rw [exec_sknp, execSknp]; split <;> exact ⟨_, rfl⟩
  | ldF x => rw [exec_ldF, execLdF]; split <;> exact ⟨_, rfl⟩
  | drw x y n => exact accessing_answers _ _ _ _
  | ldB x => exact accessing_answers _ _ _ _
  | storeRegs x => exact accessing_answers _ _ _ _
  | loadRegs x => exact accessing_answers _ _ _ _
  | _ => exact ⟨_, rfl⟩

/-- The two ways an instruction ends: its fault is raised and nothing else changes, or its parts of the summary table change and
no fault is raised. -/
def EndsIn (i : Instr) (s t : State) : Prop :=
  (i.faultIn s ≠ .none ∧ t = s.setFault (i.faultIn s)) ∨
  (i.faultIn s = .none ∧ OnlyChanges (i.mayChange.filter (· ≠ .fault)) s t)

/-- An instruction that tests `P` and raises `c` ends in one of the two ways. -/
theorem endsIn_of_test {i : Instr} {s t : State} {P : Prop} [Decidable P] {c : FaultCode}
    (hfault : i.faultIn s = if P then c else .none) (hc : c ≠ .none)
    (h : (P ∧ t = s.setFault c) ∨ (¬ P ∧ OnlyChanges (i.mayChange.filter (· ≠ .fault)) s t)) : EndsIn i s t := by
  rcases h with ⟨hp, ht⟩ | ⟨hp, hframe⟩
  · rw [if_pos hp] at hfault
    exact .inl ⟨hfault ▸ hc, hfault ▸ ht⟩
  · exact .inr ⟨by rw [hfault, if_neg hp], hframe⟩

theorem exec_endsIn {i : Instr} {s t : State} (h : exec i s = .next t) : EndsIn i s t := by
  cases i with
  | ret =>
    refine endsIn_of_test rfl (by decide) ?_
    rcases execRet_cases h with ⟨hsp, rfl⟩ | ⟨hsp, _, _, rfl⟩
    · exact .inl ⟨hsp, rfl⟩
    · exact .inr ⟨by omega, by simp [Instr.mayChange]⟩
  | call nnn =>
    refine endsIn_of_test rfl (by decide) ?_
    rcases execCall_cases h with ⟨hsp, rfl⟩ | ⟨hsp, _, rfl⟩
    · exact .inl ⟨hsp, rfl⟩
    · exact .inr ⟨by omega, by simp [Instr.mayChange]⟩
  | skp x =>
    refine endsIn_of_test rfl (by decide) ?_
    rcases execSkp_cases h with ⟨hk, rfl⟩ | ⟨hk, rfl⟩
    · exact .inl ⟨by omega, rfl⟩
    · exact .inr ⟨by omega, by simp [Instr.mayChange]⟩
  | sknp x =>
    refine endsIn_of_test rfl (by decide) ?_
    rcases execSknp_cases h with ⟨hk, rfl⟩ | ⟨hk, rfl⟩
    · exact .inl ⟨by omega, rfl⟩
    · exact .inr ⟨by omega, by simp [Instr.mayChange]⟩
  | ldF x =>
    refine endsIn_of_test rfl (by decide) ?_
    rcases execLdF_cases h with ⟨hd, rfl⟩ | ⟨hd, rfl⟩
    · exact .inl ⟨hd, rfl⟩
    · exact .inr ⟨by omega, by simp [Instr.mayChange]⟩
  | drw x y n =>
    refine endsIn_of_test rfl (by decide) ?_
    rcases execDrw_cases h with ⟨hn, ha, rfl⟩ | ⟨ha, rfl⟩ <;> unfold State.base at ha
    · exact .inl ⟨by omega, rfl⟩
    · exact .inr ⟨by omega, by simp [Instr.mayChange]⟩
  | ldB x =>
    refine endsIn_of_test rfl (by decide) ?_
    rcases execLdB_cases h with ⟨ha, rfl⟩ | ⟨ha, rfl⟩ <;> unfold State.base at ha
    · exact .inl ⟨by omega, rfl⟩
    · exact .inr ⟨by omega, by simp [Instr.mayChange]⟩
  | storeRegs x =>
    refine endsIn_of_test rfl (by decide) ?_
    rcases execStoreRegs_cases h with ⟨ha, rfl⟩ | ⟨ha, rfl⟩ <;> unfold State.base at ha
    · exact .inl ⟨by omega, rfl⟩
    · exact .inr ⟨by omega, by simp [Instr.mayChange]⟩
  | loadRegs x =>
    refine endsIn_of_test rfl (by decide) ?_
    rcases execLoadRegs_cases h with ⟨ha, rfl⟩ | ⟨ha, rfl⟩ <;> unfold State.base at ha
    · exact .inl ⟨by omega, rfl⟩
    · exact .inr ⟨by omega, by simp [Instr.mayChange]⟩
  | _ =>
    obtain rfl := eq_of_next_eq h
    exact .inr ⟨rfl, by simp [Instr.mayChange]⟩

/-! ### The same, from the conditions

An equation for the fault of every instruction, and one for each instruction with a fault when it completes. -/

theorem exec_of_fault {i : Instr} {s : State} {c : FaultCode} (hfault : i.faultIn s = c) (hc : c ≠ .none) :
    exec i s = .next (s.setFault c) := by
  obtain ⟨t, ht⟩ := exec_answers i s
  rcases exec_endsIn ht with ⟨_, rfl⟩ | ⟨hnone, _⟩
  · exact hfault ▸ ht
  · exact absurd (hfault.symm.trans hnone) hc

/-- A raised fault, as the statements about one instruction say it. -/
theorem exists_fault {i : Instr} {s : State} {c : FaultCode} (hfault : i.faultIn s = c) (hc : c ≠ .none) :
    ∃ t, exec i s = .next t ∧ t.fault = c ∧ OnlyChanges [.fault] s t :=
  ⟨s.setFault c, exec_of_fault hfault hc, rfl, by simp⟩

theorem exec_ret_of_pos {s : State} (h : 0 < s.sp.val) :
    exec .ret s = .next ((s.setSp ⟨s.sp.val - 1, by omega⟩).setPc (s.stk[s.sp.val - 1]'(by omega) + 2)) := by
  obtain ⟨t, ht⟩ := exec_answers .ret s
  rcases execRet_cases ht with ⟨hsp, _⟩ | ⟨_, _, _, rfl⟩
  · omega
  · exact ht

theorem exec_call_of_lt {s : State} (h : s.sp.val < 16) (nnn : Imm12) :
    exec (.call nnn) s =
      .next (((s.setStk (s.stk.set s.sp.val s.pc h)).setSp ⟨s.sp.val + 1, by omega⟩).setPc (immAddress nnn)) := by
  obtain ⟨t, ht⟩ := exec_answers (.call nnn) s
  rcases execCall_cases ht with ⟨hsp, _⟩ | ⟨_, _, rfl⟩
  · omega
  · exact ht

theorem exec_skp_of_lt {x : RegIdx} {s : State} (h : (s.getV x).toNat < 16) :
    exec (.skp x) s = .next (s.skipIf s.key[(s.getV x).toNat]) := by
  rw [exec_skp, execSkp, State.keyLatch_of_le h]

theorem exec_sknp_of_lt {x : RegIdx} {s : State} (h : (s.getV x).toNat < 16) :
    exec (.sknp x) s = .next (s.skipIf (!s.key[(s.getV x).toNat])) := by
  rw [exec_sknp, execSknp, State.keyLatch_of_le h]

theorem exec_ldF_of_le {x : RegIdx} {s : State} (h : (s.getV x).toNat ≤ 0xF) :
    exec (.ldF x) s = .next (s.setI (glyphAddress (s.getV x))).advance := if_neg (Nat.not_lt.2 h)

theorem exec_ldB_of_le {x : RegIdx} {s : State} (h : s.base + 3 ≤ 0x1000) :
    exec (.ldB x) s = .next (s.setMem (s.mem.writeBlock s.base (bcdDigits (s.getV x)))).advance :=
  accessing_of_inRange (inRange_iff.2 (.inr h)) _ _

theorem exec_storeRegs_of_le {x : RegIdx} {s : State} (h : s.base + (x.toNat + 1) ≤ 0x1000) :
    exec (.storeRegs x) s = .next (s.setMem (s.mem.writeBlock s.base (s.blockBytes x))).advance :=
  accessing_of_inRange (inRange_iff.2 (.inr h)) _ _

theorem exec_loadRegs_of_le {x : RegIdx} {s : State} (h : s.base + (x.toNat + 1) ≤ 0x1000) :
    exec (.loadRegs x) s = .next (s.setRegs (s.mem.loadBlock s.base s.v (x.toNat + 1))).advance :=
  accessing_of_inRange (inRange_iff.2 (.inr h)) _ _

/-- Only an instruction with `FAULT` in its row of the summary table raises a fault. -/
theorem fault_mem_mayChange {i : Instr} {s : State} (h : i.faultIn s ≠ .none) : Part.fault ∈ i.mayChange := by
  cases i with
  | ret | call | skp | sknp | ldF | drw | ldB | storeRegs | loadRegs => simp [Instr.mayChange]
  | _ => exact absurd rfl h

/-! ### The statements over all instructions -/

/-- Settles O44: a fault changes the latch, which stands in the row of every instruction that raises one; what completes changes
the rest of its row. -/
theorem instructionsChangeOnlyTheirParts : Obligations.InstructionsChangeOnlyTheirParts := by
  intro i s t h
  rcases exec_endsIn h with ⟨hf, rfl⟩ | ⟨_, hframe⟩
  · simp [fault_mem_mayChange hf]
  · exact hframe.mono (List.filter_subset_self _)

/-- Settles O48: an instruction ends with its fault, or with the latch as it was. -/
theorem faultsAreExactlyTheListedOnes : Obligations.FaultsAreExactlyTheListedOnes := by
  intro i s t hs h
  rcases exec_endsIn h with ⟨_, rfl⟩ | ⟨hnone, hframe⟩
  · rfl
  · have hlatch : t.fault = s.fault := hframe .fault (by simp)
    rw [hlatch, hs, hnone]

/-- Settles O47: memory is in the row of the two stores only, and a block write leaves the addresses outside the block alone. -/
theorem memoryOutsideTheStoreUnchanged : Obligations.MemoryOutsideTheStoreUnchanged := by
  intro i s t a h ha
  have hframe := instructionsChangeOnlyTheirParts i s t h
  cases i with
  | ldB x =>
    rcases execLdB_cases h with ⟨_, rfl⟩ | ⟨_, rfl⟩
    · rfl
    · exact Memory.read_writeBlock_outside ha
  | storeRegs x =>
    rcases execStoreRegs_cases h with ⟨_, rfl⟩ | ⟨_, rfl⟩
    · rfl
    · exact Memory.read_writeBlock_outside (by rwa [State.blockBytes_length])
  | _ => exact hframe .memory (by simp [Instr.mayChange]) a

/-- Settles O45: the registers are in the row of fifteen instructions, and each of those writes its destination, VF or its
block. -/
theorem registersOutsideDestinationUnchanged : Obligations.RegistersOutsideDestinationUnchanged := by
  intro i r s t h hr
  have hframe := instructionsChangeOnlyTheirParts i s t h
  cases i with
  | ldByte | addByte | ldReg | orReg | andReg | xorReg | ldVxDT | rnd =>
    obtain rfl := eq_of_next_eq h
    simp_all [Instr.mayWriteReg]
  | addReg | subReg | shrReg | subnReg | shlReg =>
    obtain rfl := eq_of_next_eq h
    simp_all [Instr.mayWriteReg]
  | drw x y n =>
    rcases execDrw_cases h with ⟨_, _, rfl⟩ | ⟨_, rfl⟩
    · rfl
    · simp_all [Instr.mayWriteReg]
  | loadRegs x =>
    rcases execLoadRegs_cases h with ⟨_, rfl⟩ | ⟨_, rfl⟩
    · rfl
    · simp_all [Instr.mayWriteReg, State.getV, Memory.getElem_loadBlock]
  | _ => exact hframe .regs (by simp [Instr.mayChange]) r

theorem flagByte_zero_or_one (c : Bool) : flagByte c = 0 ∨ flagByte c = 1 := by cases c <;> simp [flagByte]

/-- The flag-writing instructions end with the flag in VF (rule R123). -/
theorem setResultAndFlag_advance_flag (s : State) (x : RegIdx) (b : Byte) (c : Bool) :
    (s.setResultAndFlag x b c).advance.getV 0xF = flagByte c := by simp [flagReg]

/-- Settles O46: VF is written last, with a flag. -/
theorem flagsAreZeroOrOne : Obligations.FlagsAreZeroOrOne := by
  intro x y n i s t hi h hnone
  have hflag : ∃ c, t.getV 0xF = flagByte c := by
    rcases hi with rfl | rfl | rfl | rfl | rfl | rfl
    case inr.inr.inr.inr.inr =>
      rcases execDrw_cases h with ⟨_, _, rfl⟩ | ⟨_, rfl⟩
      · exact absurd hnone (by simp)
      · exact ⟨_, State.setV_getV _ flagReg _ flagReg⟩
    all_goals
      obtain rfl := eq_of_next_eq h
      exact ⟨_, setResultAndFlag_advance_flag ..⟩
  obtain ⟨c, hc⟩ := hflag
  exact hc ▸ flagByte_zero_or_one c

end Sys2Proof.Machine
end

section
/-! The invariant of reachable states (rule R35, rule R23's bound, memory in canonical form): every instruction, every step and every
move of the host keeps it. -/

namespace Sys2Proof.Machine

/-! ### Updates that keep the invariant -/

/-- The invariant speaks of `PC`, memory, `WAIT`, `FAULT` and the stack only. -/
theorem State.Inv.congr {s t : State} (hs : s.Inv) (hpc : t.pc = s.pc) (hmem : t.mem = s.mem) (hwait : t.wait = s.wait)
    (hfault : t.fault = s.fault) (hsp : t.sp = s.sp) (hstk : t.stk = s.stk) : t.Inv where
  waitOk := by
    unfold State.waitOk
    rw [hwait, hfault, hpc, State.fetch_congr hpc hmem]
    exact hs.waitOk
  faultOk := by unfold State.faultOk; rw [hfault, hwait]; exact hs.faultOk
  stackOk := by unfold State.stackOk; rw [hsp, hstk]; exact hs.stackOk
  pcOk := by unfold State.pcOk; rw [hpc]; exact hs.pcOk
  memOk := by rw [hmem]; exact hs.memOk

/-- Outside a key wait only the stack, `PC` and memory matter. -/
theorem State.Inv.of_running {t : State} (hwait : t.wait = .running) (hstk : t.stackOk) (hpc : t.pcOk)
    (hmem : t.mem.wf = true) : t.Inv where
  waitOk := fun r hr => by rw [hwait] at hr; cases hr
  faultOk := fun _ => hwait
  stackOk := hstk
  pcOk := hpc
  memOk := hmem

/-- A fault may be latched outside a key wait. -/
theorem State.Inv.setFault {s : State} (hs : s.Inv) (hwait : s.wait = .running) (c : FaultCode) : (s.setFault c).Inv :=
  .of_running hwait hs.stackOk hs.pcOk hs.memOk

theorem State.Inv.timerTick {s : State} (hs : s.Inv) : s.timerTick.Inv := hs.congr rfl rfl rfl rfl rfl rfl

theorem State.Inv.settle {s : State} (hs : s.Inv) : s.settle.Inv :=
  hs.congr (by simp) (by simp) (by simp) (by simp) (by simp) (by simp)

theorem State.Inv.setRndIn {s : State} (hs : s.Inv) (b : Option Byte) : (s.setRndIn b).Inv := hs.congr rfl rfl rfl rfl rfl rfl

theorem State.Inv.setRedraw {s : State} (hs : s.Inv) (b : Bool) : (s.setRedraw b).Inv := hs.congr rfl rfl rfl rfl rfl rfl

theorem State.Inv.setKey {s : State} (hs : s.Inv) (k : Vector Bool 16) : (s.setKey k).Inv := hs.congr rfl rfl rfl rfl rfl rfl

/-! ### What an instruction does to `WAIT`, memory, the stack and `PC` -/

/-- Only `LD Vx, K` enters a key wait, and it changes nothing else. -/
theorem exec_wait {i : Instr} {s t : State} (h : exec i s = .next t) :
    t.wait = s.wait ∨ ∃ x, i = .ldVxK x ∧ t = s.setWait (.awaitingKey x) := by
  cases i with
  | ldVxK x => exact .inr ⟨x, rfl, eq_of_next_eq h⟩
  | _ => exact .inl (instructionsChangeOnlyTheirParts _ s t h .wait (by simp [Instr.mayChange]))

theorem exec_mem_wf {i : Instr} {s t : State} (h : exec i s = .next t) (hs : s.mem.wf = true) : t.mem.wf = true := by
  cases i with
  | ldB x =>
    rcases execLdB_cases h with ⟨_, rfl⟩ | ⟨ha, rfl⟩
    · exact hs
    · exact Memory.wf_writeBlock hs ha
  | storeRegs x =>
    rcases execStoreRegs_cases h with ⟨_, rfl⟩ | ⟨ha, rfl⟩
    · exact hs
    · exact Memory.wf_writeBlock hs (by rwa [State.blockBytes_length])
  | ret => rcases execRet_cases h with ⟨_, rfl⟩ | ⟨_, _, _, rfl⟩ <;> exact hs
  | call nnn => rcases execCall_cases h with ⟨_, rfl⟩ | ⟨_, _, rfl⟩ <;> exact hs
  | skp x => rcases execSkp_cases h with ⟨_, rfl⟩ | ⟨_, rfl⟩ <;> simpa using hs
  | sknp x => rcases execSknp_cases h with ⟨_, rfl⟩ | ⟨_, rfl⟩ <;> simpa using hs
  | ldF x => rcases execLdF_cases h with ⟨_, rfl⟩ | ⟨_, rfl⟩ <;> exact hs
  | drw x y n => rcases execDrw_cases h with ⟨_, _, rfl⟩ | ⟨_, rfl⟩ <;> exact hs
  | loadRegs x => rcases execLoadRegs_cases h with ⟨_, rfl⟩ | ⟨_, rfl⟩ <;> exact hs
  | seByte | sneByte | seReg | sneReg => obtain rfl := eq_of_next_eq h; simpa using hs
  | _ => obtain rfl := eq_of_next_eq h; exact hs

/-- `CALL` pushes an address that was fetched from; no other instruction adds an entry. -/
theorem exec_stackOk {i : Instr} {s t : State} (h : exec i s = .next t) (hs : s.stackOk) (hpc : s.pc.toNat ≤ 0xFFE) :
    t.stackOk := by
  cases i with
  | call nnn =>
    rcases execCall_cases h with ⟨_, rfl⟩ | ⟨hsp, _, rfl⟩
    · exact hs
    · intro j hj
      simp only [State.setPc_stk, State.setSp_stk, State.setStk_stk, State.setPc_sp, State.setSp_sp] at hj ⊢
      by_cases hlast : s.sp.val = j.val
      · simpa [hlast] using hpc
      · simpa [hlast] using hs j (by omega)
  | ret =>
    rcases execRet_cases h with ⟨_, rfl⟩ | ⟨_, _, _, rfl⟩
    · exact hs
    · exact fun j hj => hs j (by simp at hj; omega)
  | _ =>
    obtain ⟨hsp, hstk⟩ := instructionsChangeOnlyTheirParts _ s t h .stack (by simp [Instr.mayChange])
    unfold State.stackOk
    rw [hsp, hstk]
    exact hs

/-- Two bytes past an address that can be fetched from. -/
theorem add_two_le {w : Word} (h : w.toNat ≤ 0xFFE) : (w + 2).toNat ≤ 0x10FE := by bv_omega

theorem State.skipIf_pcOk {s : State} (h : s.pc.toNat ≤ 0xFFE) (c : Bool) : (s.skipIf c).pcOk := by
  unfold State.pcOk
  cases c <;> simp <;> bv_omega

theorem immAddress_le (nnn : Imm12) : (immAddress nnn).toNat ≤ 0xFFF := by
  rw [immAddress_toNat]; have := nnn.isLt; omega

theorem State.getVWide_toNat (s : State) (x : RegIdx) : (s.getVWide x).toNat = (s.getV x).toNat :=
  BitVec.toNat_setWidth_of_le (by decide)

/-- `NNN + V[0]` does not wrap (decision D29). -/
theorem indexedJump_toNat (nnn : Imm12) (s : State) :
    (immAddress nnn + s.getVWide 0).toNat = nnn.toNat + (s.getV 0).toNat := by
  have hn := nnn.isLt
  have hv := (s.getV 0).isLt
  rw [BitVec.toNat_add, immAddress_toNat, State.getVWide_toNat]
  omega

/-- The largest `PC` is that of `JP V0, NNN`: 0xFFF and 0xFF (rule R23). -/
theorem exec_pcOk {i : Instr} {s t : State} (h : exec i s = .next t) (hs : s.stackOk) (hpc : s.pc.toNat ≤ 0xFFE) :
    t.pcOk := by
  have hfault : s.pcOk := Nat.le_trans hpc (by decide)
  have hnext : (s.pc + 2).toNat ≤ 0x10FE := add_two_le hpc
  cases i with
  | ret =>
    rcases execRet_cases h with ⟨_, rfl⟩ | ⟨hp, hk, _, rfl⟩
    · exact hfault
    · exact add_two_le (hs ⟨s.sp.val - 1, hk⟩ (by simp; omega))
  | jp nnn => obtain rfl := eq_of_next_eq h; exact Nat.le_trans (immAddress_le nnn) (by decide)
  | call nnn =>
    rcases execCall_cases h with ⟨_, rfl⟩ | ⟨_, _, rfl⟩
    · exact hfault
    · exact Nat.le_trans (immAddress_le nnn) (by decide)
  | jpV0 nnn =>
    obtain rfl := eq_of_next_eq h
    have hsum : (immAddress nnn + s.getVWide 0).toNat ≤ 0x10FE := by
      have hn := nnn.isLt
      have hv := (s.getV 0).isLt
      rw [indexedJump_toNat]
      omega
    exact hsum
  | seByte | sneByte | seReg | sneReg => obtain rfl := eq_of_next_eq h; exact State.skipIf_pcOk hpc _
  | skp x =>
    rcases execSkp_cases h with ⟨_, rfl⟩ | ⟨_, rfl⟩
    · exact hfault
    · exact State.skipIf_pcOk hpc _
  | sknp x =>
    rcases execSknp_cases h with ⟨_, rfl⟩ | ⟨_, rfl⟩
    · exact hfault
    · exact State.skipIf_pcOk hpc _
  | ldVxK x => obtain rfl := eq_of_next_eq h; exact hfault
  | ldF x => rcases execLdF_cases h with ⟨_, rfl⟩ | ⟨_, rfl⟩ <;> assumption
  | drw x y n => rcases execDrw_cases h with ⟨_, _, rfl⟩ | ⟨_, rfl⟩ <;> assumption
  | ldB x => rcases execLdB_cases h with ⟨_, rfl⟩ | ⟨_, rfl⟩ <;> assumption
  | storeRegs x => rcases execStoreRegs_cases h with ⟨_, rfl⟩ | ⟨_, rfl⟩ <;> assumption
  | loadRegs x => rcases execLoadRegs_cases h with ⟨_, rfl⟩ | ⟨_, rfl⟩ <;> assumption
  | _ => obtain rfl := eq_of_next_eq h; exact hnext

/-! ### The step -/

/-- The executor keeps the invariant of a running core. -/
theorem exec_keeps_inv {s t : State} {w : Word} (hs : s.Inv) (hfault : s.fault = .none) (hwait : s.wait = .running)
    (hfetch : s.fetch = some w) (h : exec (decode w) s = .next t) : t.Inv := by
  have hpc : s.pc.toNat ≤ 0xFFE := (State.fetch_eq_some.1 hfetch).1
  rcases exec_wait h with hw | ⟨x, hx, rfl⟩
  · exact .of_running (hw.trans hwait) (exec_stackOk h hs.stackOk hpc) (exec_pcOk h hs.stackOk hpc) (exec_mem_wf h hs.memOk)
  · refine ⟨fun r hr => ?_, fun hf => absurd hfault hf, hs.stackOk, hs.pcOk, hs.memOk⟩
    injection hr with hr
    exact ⟨hfault, hpc, w, hfetch, hr ▸ hx⟩

/-- Settles O56: a step runs the timers, latches a fault, or runs the instruction it fetched; the key wait an instruction enters
is the one of the word at `PC`, which stays. -/
theorem stepKeepsInvariant : Obligations.StepKeepsInvariant := by
  intro s t hs h
  rcases cycle_cases h with ⟨_, rfl⟩ | ⟨_, _, rfl⟩ | ⟨_, hwait, _, rfl⟩ | ⟨hfault, hwait, w, u, hfetch, hexec, rfl⟩
  · exact hs
  · exact hs.timerTick
  · exact hs.setFault hwait _
  · exact (exec_keeps_inv hs hfault hwait hfetch hexec).settle

/-! ### The host's moves -/

theorem State.reset_inv : State.reset.Inv :=
  .of_running rfl (fun j hj => absurd hj (Nat.not_lt_zero _)) (show (0x200 : Word).toNat ≤ 0x10FE by decide) Memory.wf_nil

theorem State.doReset_inv (s : State) : s.doReset.Inv := State.reset_inv.congr rfl rfl rfl rfl rfl rfl

/-- Settles O55: the stack is empty, memory lists no cell, and the core runs at 0x200. -/
theorem resetMeetsInvariant : Obligations.ResetMeetsInvariant := ⟨State.reset_inv, State.reset_inv, fun _ => rfl⟩

/-- A load keeps the invariant of a core that is in no key wait. -/
theorem State.Inv.load {s : State} (hs : s.Inv) (hwait : s.wait = .running) (bytes : List Byte) : (s.load bytes).1.Inv := by
  unfold State.load
  split
  · exact hs.setFault hwait _
  · next hlen =>
    have hfits : Config.programBase + bytes.length ≤ 0x1000 := by simp only [Config.maxProgram, Config.programBase] at *; omega
    exact .of_running hwait hs.stackOk hs.pcOk (Memory.wf_writeBlock hs.memOk hfits)

/-- A press edge ends the key wait two bytes past its instruction. -/
theorem State.Inv.resolveWait {s : State} (hs : s.Inv) (k : Byte) : (s.resolveWait k).Inv := by
  unfold State.resolveWait
  split
  · exact hs
  · next r hr => exact .of_running rfl hs.stackOk (add_two_le (hs.waitOk r hr).2.1) hs.memOk

theorem State.Inv.keyEvent {s : State} (hs : s.Inv) (k : Int) (pressed : Bool) : (s.keyEvent k pressed).1.Inv := by
  unfold State.keyEvent
  split
  · dsimp only
    split
    · exact (hs.setKey _).resolveWait _
    · exact hs.setKey _
  · exact hs

theorem stepWith_keeps_inv {s t : State} {a : Answer} {rnd : Byte} (hs : s.Inv) (h : stepWith rnd s = .next (t, a)) :
    t.Inv := by
  unfold stepWith at h
  split at h
  · next u hu =>
    injection h with h
    injection h with ht _
    exact ht ▸ (stepKeepsInvariant _ u (hs.setRndIn (some rnd)) hu).setRndIn none
  · cases h
  · cases h

/-- A key event enters no key wait. -/
theorem State.keyEvent_wait {s : State} (hs : s.wait = .running) (k : Int) (pressed : Bool) :
    (s.keyEvent k pressed).1.wait = .running := by
  unfold State.keyEvent
  split
  · dsimp only
    split
    · simp [State.resolveWait, hs]
    · exact hs
  · exact hs

/-! ### The moves of a session, one by one -/

section
variable {x y : Session} {a : Answer}

theorem Session.move_load_of_loadable (h : x.loadable = true) (bytes : List Byte) :
    x.move (.load bytes) = .next (⟨(x.core.load bytes).1, false⟩, (x.core.load bytes).2) := if_pos h

theorem Session.move_load_of_not_loadable (h : x.loadable = false) (bytes : List Byte) :
    x.move (.load bytes) = .refused .loadOutsideLaunch := by simp [Session.move, h]

theorem Session.eq_of_move_reset (h : x.move .reset = .next (y, a)) : y = ⟨x.core.doReset, true⟩ := by
  injection h with h; injection h with h _; exact h.symm

theorem Session.eq_of_move_load {bytes : List Byte} (h : x.move (.load bytes) = .next (y, a)) :
    x.loadable = true ∧ y = ⟨(x.core.load bytes).1, false⟩ := by
  cases hx : x.loadable with
  | false => rw [Session.move_load_of_not_loadable hx] at h; cases h
  | true =>
    rw [Session.move_load_of_loadable hx] at h
    injection h with h; injection h with h _
    exact ⟨rfl, h.symm⟩

theorem Session.eq_of_move_keyEvent {k : Int} {pressed : Bool} (h : x.move (.keyEvent k pressed) = .next (y, a)) :
    y = ⟨(x.core.keyEvent k pressed).1, x.loadable⟩ := by
  injection h with h; injection h with h _; exact h.symm

theorem Session.eq_of_move_step {rnd : Byte} (h : x.move (.step rnd) = .next (y, a)) :
    ∃ t, stepWith rnd x.core = .next (t, a) ∧ y = ⟨t, false⟩ := by
  unfold Session.move at h
  dsimp only at h
  split at h
  · next t b hstep =>
    injection h with h; injection h with hy hb
    exact ⟨t, hb ▸ hstep, hy.symm⟩
  · cases h
  · cases h

theorem Session.eq_of_move_ackRedraw (h : x.move .ackRedraw = .next (y, a)) : y = ⟨x.core.ackRedraw, x.loadable⟩ := by
  injection h with h; injection h with h _; exact h.symm

end

/-- Settles O57: `Load` is a move of a core in no key wait only, and the step is `stepKeepsInvariant`. -/
theorem hostMovesKeepInvariant : Obligations.HostMovesKeepInvariant := by
  intro m x y a hx h
  cases m with
  | reset =>
    rw [Session.eq_of_move_reset h]
    exact ⟨x.core.doReset_inv, fun _ => rfl⟩
  | load bytes =>
    obtain ⟨hl, rfl⟩ := Session.eq_of_move_load h
    exact ⟨hx.core.load (hx.loadableOk hl) bytes, fun hfalse => nomatch hfalse⟩
  | keyEvent k pressed =>
    rw [Session.eq_of_move_keyEvent h]
    exact ⟨hx.core.keyEvent k pressed, fun hl => State.keyEvent_wait (hx.loadableOk hl) k pressed⟩
  | step rnd =>
    obtain ⟨t, hstep, rfl⟩ := Session.eq_of_move_step h
    exact ⟨stepWith_keeps_inv hx.core hstep, fun hfalse => nomatch hfalse⟩
  | ackRedraw =>
    rw [Session.eq_of_move_ackRedraw h]
    exact ⟨hx.core.setRedraw false, hx.loadableOk⟩

/-- A schedule keeps the invariant, from every session that has it. -/
theorem Session.run_keeps_inv : ∀ {ms : List HostMove} {x y : Session} {as : List Answer},
    x.Inv → x.run ms = .next (y, as) → y.Inv
  | [], x, y, as, hx, h => by
    injection h with h; injection h with h _; exact h ▸ hx
  | m :: ms, x, y, as, hx, h => by
    unfold Session.run at h
    split at h
    · next z b hmove =>
      split at h
      · next z' as' hrun =>
        injection h with h; injection h with h _
        exact h ▸ Session.run_keeps_inv (hostMovesKeepInvariant m x z b hx hmove) hrun
      · cases h
      · cases h
    · cases h
    · cases h

/-- Settles O58: the start has the invariant, and every move keeps it. -/
theorem reachableStatesMeetInvariant : Obligations.ReachableStatesMeetInvariant := fun _ _ _ h =>
  (Session.run_keeps_inv resetMeetsInvariant.2 h).core

/-- Settles O54: `Session.loadable` after each move. -/
theorem loadIsOfferedOnceAfterReset : Obligations.LoadIsOfferedOnceAfterReset := by
  intro x y a bytes
  refine ⟨fun h => Session.move_load_of_not_loadable h bytes, fun h => ⟨_, Session.move_load_of_loadable h bytes, rfl⟩,
    fun h => ?_, fun rnd h => ?_, fun k pressed h => ?_, fun h => ?_⟩
  · rw [Session.eq_of_move_reset h]
  · obtain ⟨_, _, rfl⟩ := Session.eq_of_move_step h; rfl
  · rw [Session.eq_of_move_keyEvent h]
  · rw [Session.eq_of_move_ackRedraw h]

end Sys2Proof.Machine
end

section
/-! The step cycle: the fetch, the step of each kind, the timers, the fault latch and the random byte (rules R70, R78, R80, R157 to
R159, R172, R195). -/

namespace Sys2Proof.Machine

/-! ### The fetch -/

/-- The first byte is the high one (rule R54). -/
theorem wordOfBytes_toNat (high low : Byte) : (wordOfBytes high low).toNat = 256 * high.toNat + low.toNat := by
  unfold wordOfBytes
  rw [BitVec.toNat_append, ← Nat.shiftLeft_add_eq_or_of_lt low.isLt, Nat.shiftLeft_eq, Nat.mul_comm]

/-- Settles O6: the fetch is `wordOfBytes` of two reads, and without it the step latches `ADDRESS_RANGE`. -/
theorem fetchIsBigEndianAndFaultsAboveFFE : Obligations.FetchIsBigEndianAndFaultsAboveFFE := fun s =>
  ⟨fun hpc => ⟨_, State.fetch_eq_some.2 ⟨hpc, rfl⟩, wordOfBytes_toNat _ _⟩,
    fun hpc hfault hwait => ⟨s.setFault .addressRange, cycle_no_fetch hfault hwait (State.fetch_eq_none.2 hpc), rfl, by simp⟩⟩

/-- Settles O7: the fetched word is the two bytes joined, and `runInstr` is the executor followed by the tick. -/
theorem stepRunsDecodedInstruction : Obligations.StepRunsDecodedInstruction := fun _ hfault hwait hpc =>
  cycle_runs hfault hwait (State.fetch_eq_some.2 ⟨hpc, rfl⟩)

/-! ### Every step answers -/

theorem runInstr_answers (i : Instr) (s : State) : ∃ t, runInstr i s = .next t := by
  obtain ⟨u, hu⟩ := exec_answers i s
  exact ⟨u.settle, runInstr_next.2 ⟨u, hu, rfl⟩⟩

/-- Settles O9: a step that runs no instruction answers at once, and every instruction answers. -/
theorem everyStepAnswersNextState : Obligations.EveryStepAnswersNextState := by
  intro s
  by_cases hfault : s.fault = .none
  · cases hwait : s.wait with
    | awaitingKey r => exact ⟨_, cycle_waiting hfault hwait⟩
    | running =>
      cases hfetch : s.fetch with
      | none => exact ⟨_, cycle_no_fetch hfault hwait hfetch⟩
      | some w => rw [step_eq_cycle, cycle_runs hfault hwait hfetch]; exact runInstr_answers (decode w) s
  · exact ⟨s, cycle_faulted hfault⟩

/-! ### Timers -/

/-- A step that latches no fault is a tick after the executor, or after nothing in a key wait. -/
theorem step_ticks {s t : State} (hs : s.fault = .none) (h : step s = .next t) (ht : t.fault = .none) :
    ∃ u, t = u.timerTick ∧
      ((s.wait ≠ .running ∧ u = s) ∨ (s.wait = .running ∧ ∃ w, s.fetch = some w ∧ exec (decode w) s = .next u)) := by
  rcases cycle_cases h with ⟨hf, rfl⟩ | ⟨_, ⟨r, hr⟩, rfl⟩ | ⟨_, _, _, rfl⟩ | ⟨_, hwait, w, u, hfetch, hexec, rfl⟩
  · exact absurd hs hf
  · exact ⟨s, rfl, .inl ⟨by simp [hr], rfl⟩⟩
  · cases ht
  · exact ⟨u, State.settle_of_fault_none (by simpa using ht), .inr ⟨hwait, w, hfetch, hexec⟩⟩

/-- Only `LD DT, Vx` writes the delay timer in the executor. -/
theorem exec_dt {i : Instr} {s u : State} (h : exec i s = .next u) : u.dt = s.dt ∨ ∃ x, i = .ldDTVx x := by
  cases i with
  | ldDTVx x => exact .inr ⟨x, rfl⟩
  | _ => exact .inl (instructionsChangeOnlyTheirParts _ s u h .delay (by simp [Instr.mayChange]))

/-- Only `LD ST, Vx` writes the sound timer in the executor. -/
theorem exec_st {i : Instr} {s u : State} (h : exec i s = .next u) : u.st = s.st ∨ ∃ x, i = .ldSTVx x := by
  cases i with
  | ldSTVx x => exact .inr ⟨x, rfl⟩
  | _ => exact .inl (instructionsChangeOnlyTheirParts _ s u h .sound (by simp [Instr.mayChange]))

/-- Settles O11: the tick follows the executor, which leaves the timers alone but for their two writers. -/
theorem timersTickOncePerStep : Obligations.TimersTickOncePerStep := by
  intro s t hs h ht
  obtain ⟨u, rfl, hu⟩ := step_ticks hs h ht
  simp only [State.timerTick_dt, State.timerTick_st, tickByte_toNat]
  rcases hu with ⟨hwait, rfl⟩ | ⟨hwait, w, hfetch, hexec⟩
  · exact ⟨⟨fun _ _ hr => absurd hr hwait, fun _ _ hr => absurd hr hwait⟩, fun _ => rfl, fun _ => rfl⟩
  · have runs : ∀ {i v}, s.fetch = some v → decode v = i → exec i s = .next u := by
      intro i v hv hi
      obtain rfl : w = v := Option.some.inj (hfetch.symm.trans hv)
      exact hi ▸ hexec
    refine ⟨⟨fun x v _ hv hi => ?_, fun x v _ hv hi => ?_⟩, fun hno => ?_, fun hno => ?_⟩
    · obtain rfl := eq_of_next_eq (runs hv hi); rfl
    · obtain rfl := eq_of_next_eq (runs hv hi); rfl
    · rcases exec_dt hexec with hdt | ⟨x, hx⟩
      · rw [hdt]
      · exact absurd hx (hno hwait x w hfetch)
    · rcases exec_st hexec with hst | ⟨x, hx⟩
      · rw [hst]
      · exact absurd hx (hno hwait x w hfetch)

theorem run_succ_of_step {M : Host.Core} {s t : M.State} (h : M.step s = .next t) (k : Nat) :
    M.run (k + 1) s = M.run k t := by
  simp only [Host.Core.run, h]

/-- Settles O8, by induction on the number of steps: each of them is one tick, and the state after it is in the same key wait. -/
theorem keyWaitHoldsAndTimersRun : Obligations.KeyWaitHoldsAndTimersRun := by
  intro k
  induction k with
  | zero => exact fun s _ _ _ => ⟨s, rfl, rfl, rfl, by simp⟩
  | succ k ih =>
    intro s r hfault hwait
    obtain ⟨t, hrun, hdt, hst, hframe⟩ := ih s.timerTick r hfault hwait
    refine ⟨t, ?_, ?_, ?_, OnlyChanges.trans (by simp) hframe⟩
    · exact (run_succ_of_step (M := Sys2Proof.core) (cycle_waiting hfault hwait) k).trans hrun
    · rw [hdt, State.timerTick_dt, tickByte_toNat]; omega
    · rw [hst, State.timerTick_st, tickByte_toNat]; omega

/-- Settles O13: the jump writes the `PC` that is there already, and the tick follows. -/
theorem idleStepOnlyRunsTimers : Obligations.IdleStepOnlyRunsTimers := by
  rintro s ⟨hfault, hwait, w, nnn, hfetch, hdec, himm⟩
  have hexec : exec (decode w) s = .next (s.setPc s.pc) := by rw [hdec, exec_jp, execJp, himm]
  refine ⟨s.timerTick, ?_, ⟨hfault, hwait, w, nnn, hfetch, hdec, himm⟩, tickByte_toNat _, tickByte_toNat _, by simp⟩
  rw [step_eq_cycle, cycle_runs hfault hwait hfetch, runInstr_next]
  exact ⟨s, hexec, (State.settle_of_fault_none hfault).symm⟩

/-! ### The unknown word -/

/-- The answer of a step that leaves a fault latched. -/
theorem stepAnswer_of_fault {t : State} (s : State) (ht : t.fault ≠ .none) : stepAnswer s t = .fault t.fault := if_neg ht

/-- The answer of a step that ran an unknown word. -/
theorem stepAnswer_of_unknown {s t : State} {w v : Word} (ht : t.fault = .none) (hwait : s.wait = .running)
    (hfetch : s.fetch = some w) (hdec : decode w = .unknown v) : stepAnswer s t = .unknown s.pc v := by
  simp [stepAnswer, ht, hwait, hfetch, hdec]

/-- Settles O12: an unknown word of rule R77 decodes to itself, and its meaning is the advance. -/
theorem unknownWordAdvancesAndReports : Obligations.UnknownWordAdvancesAndReports := by
  refine ⟨fun w s => ⟨s.advance, rfl, rfl, by simp⟩, fun w s hfault hwait hfetch hw => ?_⟩
  have hdec : decode w = .unknown w := decode_eq_unknown_iff.2 ⟨hw, rfl⟩
  refine ⟨s.advance.timerTick, ?_, rfl, tickByte_toNat _, tickByte_toNat _, by simp,
    stepAnswer_of_unknown hfault hwait hfetch hdec⟩
  rw [step_eq_cycle, cycle_runs hfault hwait hfetch, hdec, runInstr_next]
  exact ⟨s.advance, rfl, (State.settle_of_fault_none (u := s.advance) hfault).symm⟩

/-! ### The fault latch -/

/-- A step that latches a fault changes nothing else (rule R172). -/
theorem eq_setFault_of_step {s t : State} (hs : s.fault = .none) (h : step s = .next t) (ht : t.fault ≠ .none) :
    t = s.setFault t.fault := by
  rcases cycle_cases h with ⟨hf, rfl⟩ | ⟨_, _, rfl⟩ | ⟨_, _, _, rfl⟩ | ⟨_, _, w, u, _, hexec, rfl⟩
  · exact absurd hs hf
  · exact absurd hs ht
  · rfl
  · rw [State.settle_fault] at ht
    rw [State.settle_of_fault ht]
    rcases exec_endsIn hexec with ⟨_, rfl⟩ | ⟨_, hframe⟩
    · rfl
    · exact absurd ((hframe .fault (by simp)).trans hs) ht

theorem State.resolveWait_fault (s : State) (k : Byte) : (s.resolveWait k).fault = s.fault := by
  unfold State.resolveWait
  split <;> simp

/-- A key event leaves the latch. -/
theorem State.keyEvent_fault (s : State) (k : Int) (pressed : Bool) : (s.keyEvent k pressed).1.fault = s.fault := by
  unfold State.keyEvent
  split
  · dsimp only
    split <;> simp [State.resolveWait_fault]
  · rfl

/-- A program that does not fit is a fatal fault, and none of it is copied (rule R192). -/
theorem State.load_of_too_large {bytes : List Byte} (h : 3584 < bytes.length) (s : State) :
    s.load bytes = (s.setFault .programTooLarge, .fault .programTooLarge) := if_pos h

/-- Settles O10: the four ways of a step, then what each transition does to a latched core. -/
theorem raisedFaultChangesOnlyTheLatchAndSticks : Obligations.RaisedFaultChangesOnlyTheLatchAndSticks := by
  refine ⟨fun s t hs h ht => ⟨eq_setFault_of_step hs h ht, stepAnswer_of_fault s ht⟩, fun t ht => ?_, fun s bytes h => ?_⟩
  · exact ⟨cycle_faulted ht, stepAnswer_of_fault t ht, fun k pressed => t.keyEvent_fault k pressed, rfl, rfl⟩
  · have hlatched : (s.setFault .programTooLarge).fault ≠ .none := by simp
    rw [State.load_of_too_large h]
    exact ⟨cycle_faulted hlatched, stepAnswer_of_fault _ hlatched⟩

/-! ### A word placed for the next step -/

/-- The table word of a 16-bit word is the word. -/
theorem ofNat_toNat_mod (w : Word) : BitVec.ofNat 16 (w.toNat % 2 ^ 16) = w := by
  rw [Nat.mod_eq_of_lt w.isLt, BitVec.ofNat_toNat, BitVec.setWidth_eq]

/-- Settles O14: the placed word is fetched, in a core that is neither latched nor waiting. -/
theorem placedWordIsTheNextInstruction : Obligations.PlacedWordIsTheNextInstruction := by
  intro s w hmem
  constructor
  · rw [decodeTableWord, if_pos (by decide)]
    dsimp only
    rw [ofNat_toNat_mod, decodeBytes_word]
  · rw [State.withFetchWord, ofNat_toNat_mod]
    exact cycle_runs rfl rfl (State.placeWord_fetch hmem w)

/-! ### The random byte -/

theorem skipIf_setRndIn (s : State) (b : Option Byte) (c : Bool) : (s.setRndIn b).skipIf c = (s.skipIf c).setRndIn b := by
  cases c <;> rfl

theorem settle_setRndIn (s : State) (b : Option Byte) : (s.setRndIn b).settle = s.settle.setRndIn b := by
  by_cases hlatch : s.fault = .none
  · rw [State.settle_of_fault_none hlatch]; exact State.settle_of_fault_none (u := s.setRndIn b) hlatch
  · rw [State.settle_of_fault hlatch]; exact State.settle_of_fault (u := s.setRndIn b) hlatch

theorem accessing_setRndIn {base count : Nat} {s t u : State} (h : accessing base count s t = .next u) (b : Option Byte) :
    accessing base count (s.setRndIn b) (t.setRndIn b) = .next (u.setRndIn b) := by
  rcases accessing_cases h with ⟨hin, rfl⟩ | ⟨hout, rfl⟩
  · exact accessing_of_inRange hin _ _
  · exact accessing_of_not_inRange hout _ _

/-- The byte passed with a step matters to `RND` only: every other instruction answers the same state around it. -/
theorem exec_setRndIn {i : Instr} {s t : State} (hi : ∀ x nn, i ≠ .rnd x nn) (b : Option Byte) (h : exec i s = .next t) :
    exec i (s.setRndIn b) = .next (t.setRndIn b) := by
  cases i with
  | rnd x nn => exact absurd rfl (hi x nn)
  | seByte | sneByte | seReg | sneReg =>
    obtain rfl := eq_of_next_eq h
    exact congrArg _ (skipIf_setRndIn s b _)
  | skp x =>
    rcases execSkp_cases h with ⟨hk, rfl⟩ | ⟨hk, rfl⟩
    · exact exec_of_fault (if_pos (Nat.not_lt.1 hk)) (by simp)
    · exact (exec_skp_of_lt (s := s.setRndIn b) hk).trans (congrArg _ (skipIf_setRndIn s b _))
  | sknp x =>
    rcases execSknp_cases h with ⟨hk, rfl⟩ | ⟨hk, rfl⟩
    · exact exec_of_fault (if_pos (Nat.not_lt.1 hk)) (by simp)
    · exact (exec_sknp_of_lt (s := s.setRndIn b) hk).trans (congrArg _ (skipIf_setRndIn s b _))
  | ret =>
    rcases execRet_cases h with ⟨hsp, rfl⟩ | ⟨hsp, _, _, rfl⟩
    · exact exec_of_fault (if_pos hsp) (by simp)
    · exact exec_ret_of_pos (s := s.setRndIn b) hsp
  | call nnn =>
    rcases execCall_cases h with ⟨hsp, rfl⟩ | ⟨hsp, _, rfl⟩
    · exact exec_of_fault (if_pos hsp) (by simp)
    · exact exec_call_of_lt (s := s.setRndIn b) hsp nnn
  | ldF x =>
    rcases execLdF_cases h with ⟨hd, rfl⟩ | ⟨hd, rfl⟩
    · exact exec_of_fault (if_pos hd) (by simp)
    · exact exec_ldF_of_le (s := s.setRndIn b) hd
  | drw | ldB | storeRegs | loadRegs => exact accessing_setRndIn h b
  | _ => obtain rfl := eq_of_next_eq h; rfl

/-- A step whose word is not `RND` answers the same state around the byte passed with it. -/
theorem step_setRndIn {s t : State} (hrnd : ∀ w x nn, s.fetch = some w → decode w ≠ .rnd x nn) (b : Option Byte)
    (h : step s = .next t) : step (s.setRndIn b) = .next (t.setRndIn b) := by
  rcases cycle_cases h with
    ⟨hf, ht⟩ | ⟨hf, ⟨r, hr⟩, rfl⟩ | ⟨hf, hwait, hfetch, rfl⟩ | ⟨hf, hwait, w, u, hfetch, hexec, rfl⟩
  · exact ht ▸ cycle_faulted (s := s.setRndIn b) hf
  · exact cycle_waiting (s := s.setRndIn b) hf hr
  · exact cycle_no_fetch (s := s.setRndIn b) hf hwait hfetch
  · have hu := exec_setRndIn (fun x nn => hrnd w x nn hfetch) b hexec
    rw [step_eq_cycle, cycle_runs (s := s.setRndIn b) hf hwait hfetch, runInstr_next]
    exact ⟨u.setRndIn b, hu, (settle_setRndIn u b).symm⟩

/-- The answer of a step does not depend on what the state after it holds for the random byte. -/
theorem stepWith_of_step {s t : State} (hrnd : ∀ w x nn, s.fetch = some w → decode w ≠ .rnd x nn) (h : step s = .next t)
    (b : Byte) : stepWith b s = .next (t.setRndIn none, stepAnswer s t) := by
  unfold stepWith
  rw [step_setRndIn hrnd (some b) h]
  rfl

/-- Settles O29: both steps answer the step without a byte, with no byte left. -/
theorem randomByteMattersToRndOnly : Obligations.RandomByteMattersToRndOnly := by
  intro s b b' hrnd
  obtain ⟨t, ht⟩ := everyStepAnswersNextState s
  rw [stepWith_of_step hrnd ht b, stepWith_of_step hrnd ht b']

end Sys2Proof.Machine
end

section
/-! Control flow: the indexed jump, call and return, and the skips on a key (rules R100, R102, R107, R150, R151). -/

namespace Sys2Proof.Machine

/-- Settles O16: the 16-bit sum of a 12-bit and an 8-bit value does not wrap. -/
theorem indexedJumpAddsV0 : Obligations.IndexedJumpAddsV0 := fun nnn s =>
  ⟨s.setPc (immAddress nnn + s.getVWide 0), exec_jpV0 nnn s, indexedJump_toNat nnn s, s.setPc_onlyChanges _⟩

/-- Settles O17: below sixteen entries the call is a push of `PC`, which writes one entry. -/
theorem callPushesItsOwnAddress : Obligations.CallPushesItsOwnAddress := by
  intro nnn s
  refine ⟨fun h => ⟨_, exec_call_of_lt h nnn, ?_, fun j hj => ?_, rfl, immAddress_toNat nnn, by simp⟩,
    fun h => exists_fault (if_pos h) (by decide)⟩
  · exact Vector.getElem_set_self h
  · exact Vector.getElem_set_ne h j.isLt (Ne.symm hj)

/-- Settles O18: above the empty stack the return is a pop, which leaves the entries in place. -/
theorem returnGoesTwoPastTheCall : Obligations.ReturnGoesTwoPastTheCall := fun s =>
  ⟨fun h => ⟨_, exec_ret_of_pos h, rfl, rfl, rfl, by simp⟩, fun h => exists_fault (if_pos h) (by decide)⟩

/-- Settles O19: the entry the return pops is the one the call pushed. -/
theorem callThenReturnResumesAfterTheCall : Obligations.CallThenReturnResumesAfterTheCall := by
  intro nnn s h
  refine ⟨_, _, exec_call_of_lt h nnn, exec_ret_of_pos (Nat.succ_pos _), ?_, rfl, by simp⟩
  simp

/-- Settles O22: both instructions are a skip on the latch that `V[X]` selects, and an index above 0xF selects none. -/
theorem keySkips : Obligations.KeySkips := by
  intro x s
  refine ⟨fun h => ⟨State.exists_of_eq_skipIf (exec_skp_of_lt h) Iff.rfl,
    State.exists_of_eq_skipIf (exec_sknp_of_lt h) (by simp)⟩, fun h => ⟨?_, ?_⟩⟩
  · exact exists_fault (if_pos h) (by decide)
  · exact exists_fault (if_pos h) (by decide)

end Sys2Proof.Machine
end

section
/-! Arithmetic with a flag, shifts and the random byte (rules R116 to R123). -/

namespace Sys2Proof.Machine

/-! ### The results -/

/-- The exact difference, narrowed, is the wrapped difference (rule R122). -/
theorem subBytes_eq (a b : Byte) : subBytes a b = a - b := by
  unfold subBytes
  bv_omega

theorem halve_toNat (a : Byte) : (halve a).toNat = a.toNat / 2 := by
  unfold halve
  bv_omega

theorem double_toNat (a : Byte) : (double a).toNat = a.toNat * 2 % 256 := BitVec.toNat_ofNat _ _

theorem flagByte_eq_ite {c : Bool} {P : Prop} [Decidable P] (hc : c = true ↔ P) : flagByte c = if P then 1 else 0 := by
  simp [flagByte, hc]

/-! ### A result and a flag written -/

/-- An outcome that writes a result and its flag and advances is what the flag-writing instructions share: with `X = 0xF` the flag
stays (decision D10). -/
theorem State.exists_of_eq_setResultAndFlag {o : Result} {s : State} {x : RegIdx} {b : Byte} {c : Bool}
    (ho : o = .next (s.setResultAndFlag x b c).advance) {Q : Byte → Prop} (hb : Q b) {P : Prop} [Decidable P]
    (hc : c = true ↔ P) :
    ∃ t, o = .next t ∧ (x ≠ 0xF → Q (t.getV x)) ∧ t.getV 0xF = (if P then 1 else 0) ∧
      (∀ r, r ≠ x → r ≠ 0xF → t.getV r = s.getV r) ∧ t.pc = s.pc + 2 ∧ OnlyChanges [.regs, .pc] s t := by
  refine ⟨_, ho, fun hx => ?_, ?_, fun r hr hf => ?_, rfl, by simp⟩
  · rwa [State.advance_getV, State.setResultAndFlag_getV, if_neg (show x ≠ flagReg from hx), if_pos rfl]
  · rw [setResultAndFlag_advance_flag, flagByte_eq_ite hc]
  · rw [State.advance_getV, State.setResultAndFlag_getV, if_neg (show r ≠ flagReg from hf), if_neg hr]

/-! ### The statements -/

/-- Settles O25: the sum and the carry of the old operands, written in that order. -/
theorem addWithCarry : Obligations.AddWithCarry := fun x y s =>
  State.exists_of_eq_setResultAndFlag (exec_addReg x y s)
    (Q := fun v => v.toNat = ((s.getV x).toNat + (s.getV y).toNat) % 256) (addBytes_toNat _ _) decide_eq_true_iff

/-- Settles O26: the difference and the not-borrow of the old operands, the two instructions with exchanged operands. -/
theorem subtractWithNotBorrow : Obligations.SubtractWithNotBorrow := fun x y s =>
  ⟨State.exists_of_eq_setResultAndFlag (exec_subReg x y s) (Q := (· = s.getV x - s.getV y)) (subBytes_eq _ _)
      decide_eq_true_iff,
    State.exists_of_eq_setResultAndFlag (exec_subnReg x y s) (Q := (· = s.getV y - s.getV x)) (subBytes_eq _ _)
      decide_eq_true_iff⟩

/-- The shifts read one register, by the open parameter (rule R8). -/
theorem State.shiftOperand_eq (s : State) (x y : RegIdx) :
    s.shiftOperand x y = if Config.shiftSrc = .vx then s.getV x else s.getV y := by
  unfold State.shiftOperand State.shiftOperandOf
  cases Config.shiftSrc <;> rfl

/-- Settles O27: both shifts read the register of `SHIFT_SRC`, and the flag is the bit that falls out. -/
theorem shiftsByOne : Obligations.ShiftsByOne := by
  rintro x y s src hsrc
  obtain rfl : s.shiftOperand x y = src := (s.shiftOperand_eq x y).trans hsrc.symm
  exact ⟨State.exists_of_eq_setResultAndFlag (exec_shrReg x y s) (Q := fun v => v.toNat = _) (halve_toNat _) Iff.rfl,
    State.exists_of_eq_setResultAndFlag (exec_shlReg x y s) (Q := fun v => v.toNat = _) (double_toNat _) Iff.rfl⟩

/-- The byte the host passed is the byte drawn (rule R80). -/
theorem State.rndByte_of_rndIn {s : State} {given : Byte} (h : s.rndIn = some given) : s.rndByte = given := by
  simp [State.rndByte, h]

/-- Settles O28: the byte drawn is the one passed, or the free value; one draw is counted. -/
theorem randomByteIsMasked : Obligations.RandomByteIsMasked := fun x nn s =>
  ⟨_, s.rndByte, exec_rnd x nn s, fun _ h => State.rndByte_of_rndIn h, s.setV_getV x _, rfl, rfl, rfl, by simp⟩

end Sys2Proof.Machine
end

section
/-! The address register and memory: the index sum, the glyph address, the stores and the load (rules R131 to R135). -/

namespace Sys2Proof.Machine

/-! ### The address register -/

/-- Settles O31: the sum is a 16-bit one. -/
theorem addToIndexRegister : Obligations.AddToIndexRegister := by
  refine fun x s => ⟨_, exec_addI x s, ?_, rfl, s.setI_advance_onlyChanges _⟩
  show (s.i + s.getVWide x).toNat = _
  rw [BitVec.toNat_add, State.getVWide_toNat]

/-- Settles O32: the glyphs are five bytes each from address 0 on, and sixteen of them stay below 2^16. -/
theorem fontAddress : Obligations.FontAddress := by
  refine fun x s => ⟨fun h => ⟨_, exec_ldF_of_le h, ?_, rfl, s.setI_advance_onlyChanges _⟩,
    fun h => exists_fault (if_pos h) (by decide)⟩
  show (BitVec.ofNat 16 (0 + 5 * (s.getV x).toNat)).toNat = _
  rw [BitVec.toNat_ofNat]
  omega

/-! ### The stores -/

/-- What a guarded store leaves: its bytes from `I` up, and every other byte as it was. -/
theorem State.read_stored {s : State} (hmem : s.mem.wf = true) {bs : List Byte} (hlen : s.base + bs.length ≤ 0x1000) {k : Nat}
    (hk : k < bs.length) : (s.setMem (s.mem.writeBlock s.base bs)).advance.mem.read (s.base + k) = bs[k] :=
  Memory.read_writeBlock_inside hk hmem hlen

theorem byte_toNat {n : Nat} (h : n < 256) : (BitVec.ofNat 8 n).toNat = n := (BitVec.toNat_ofNat n 8).trans (Nat.mod_eq_of_lt h)

/-- Settles O33: the block written is the three digits, each of which fits a byte. -/
theorem bcdStoreWritesThreeDigits : Obligations.BcdStoreWritesThreeDigits := by
  intro x s hmem
  refine ⟨fun h => ?_, fun h => exists_fault (if_pos (by omega)) (by decide)⟩
  have hv := (s.getV x).isLt
  have hlen : s.base + (bcdDigits (s.getV x)).length ≤ 0x1000 := Nat.add_le_add_right h 3
  have hread : ∀ k (hk : k < 3),
      ((s.setMem (s.mem.writeBlock s.base (bcdDigits (s.getV x)))).advance.mem.read (s.base + k)).toNat =
        (bcdDigits (s.getV x))[k].toNat := fun k hk => congrArg _ (State.read_stored hmem hlen hk)
  exact ⟨_, exec_ldB_of_le hlen, (hread 0 (by decide)).trans (byte_toNat (by omega)),
    (hread 1 (by decide)).trans (byte_toNat (by omega)), (hread 2 (by decide)).trans (byte_toNat (by omega)),
    fun a ha => Memory.read_writeBlock_outside ha, rfl, by simp⟩

/-- The stored block holds `V[r]` at place `r`. -/
theorem State.blockBytes_getElem_reg (s : State) {x r : RegIdx} (hk : r.toNat < (s.blockBytes x).length) :
    (s.blockBytes x)[r.toNat] = s.getV r := by
  rw [State.blockBytes_getElem, BitVec.ofNat_toNat, BitVec.setWidth_eq]

theorem State.read_storedRegs {s : State} (hmem : s.mem.wf = true) {x r : RegIdx} (hx : s.i.toNat + x.toNat ≤ 0xFFF)
    (hr : r.toNat ≤ x.toNat) :
    (s.setMem (s.mem.writeBlock s.base (s.blockBytes x))).advance.mem.read (s.base + r.toNat) = s.getV r := by
  have hk : r.toNat < (s.blockBytes x).length := by rw [State.blockBytes_length]; omega
  have hlen : s.base + (s.blockBytes x).length ≤ 0x1000 := by rw [State.blockBytes_length]; unfold State.base; omega
  rw [State.read_stored hmem hlen hk, State.blockBytes_getElem_reg]

/-- Settles O34: the block written is the registers in order. -/
theorem blockStoreWritesRegisters : Obligations.BlockStoreWritesRegisters := by
  refine fun x s hmem => ⟨fun h => ?_, fun h => exists_fault (if_pos h) (by decide)⟩
  refine ⟨_, exec_storeRegs_of_le (Nat.succ_le_succ h), fun r hr => State.read_storedRegs hmem h hr, fun a ha => ?_, rfl, by simp⟩
  exact Memory.read_writeBlock_outside (by rw [State.blockBytes_length]; omega)

/-! ### The load -/

/-- What the block load leaves in the registers. -/
theorem State.getV_loaded (s : State) (x r : RegIdx) :
    (s.setRegs (s.mem.loadBlock s.base s.v (x.toNat + 1))).advance.getV r =
      if r.toNat ≤ x.toNat then s.mem.read (s.base + r.toNat) else s.getV r := by
  rw [State.advance_getV, State.setRegs_getV, Memory.getElem_loadBlock]
  simp only [Nat.lt_succ_iff]
  rfl

/-- Settles O35: the registers up to `V[X]` are read, the others are not written. -/
theorem blockLoadReadsRegisters : Obligations.BlockLoadReadsRegisters := fun x s =>
  ⟨fun h => ⟨_, exec_loadRegs_of_le (Nat.succ_le_succ h), s.getV_loaded x, rfl, by simp⟩,
    fun h => exists_fault (if_pos h) (by decide)⟩

/-- Settles O36: the load reads the bytes the store wrote, from the same `I`. -/
theorem blockStoreThenLoadRestores : Obligations.BlockStoreThenLoadRestores := by
  intro x s w hmem h
  refine ⟨_, _, exec_storeRegs_of_le (Nat.succ_le_succ h), exec_loadRegs_of_le (Nat.succ_le_succ h), fun r hr => ?_⟩
  rw [State.getV_loaded, if_pos hr]
  exact State.read_storedRegs hmem h hr

end Sys2Proof.Machine
end

section
/-! The display: `DRW` against the sprite as a picture, once and twice, and the order of the output (rules R141, R142, R144). -/

namespace Sys2Proof.Machine

/-! ### What a completed draw leaves -/

section
variable (s : State) (x y : RegIdx) (n : Nibble)

/-- The sprite of `DRW Vx, Vy, N` covers a cell (rule R141). -/
def State.Covers (r : Fin 32) (c : Fin 64) : Prop := SpriteCovers s.mem s.base n.toNat (s.getV x) (s.getV y) r c

/-- The sprite covers a cell that is set. -/
def State.Collides : Prop := ∃ r c, s.Covers x y n r c ∧ s.fb.pixel r c = true

/-- Screen and collision flag of the loops of `DRW`. -/
def State.canvas : Canvas := Canvas.plotSprite s.mem s.base (s.getV x) (s.getV y) n.toNat (s.fb, false)

/-- The state a `DRW` without a fault leaves. -/
def State.afterDraw : State :=
  (((s.setFb (s.canvas x y n).1).setV flagReg (flagByte (s.canvas x y n).2)).setRedraw true).advance

variable {s x y n}

theorem exec_drw_of_le (h : n.toNat = 0 ∨ s.base + n.toNat ≤ 0x1000) : exec (.drw x y n) s = .next (s.afterDraw x y n) :=
  accessing_of_inRange (inRange_iff.2 h) _ _

theorem State.afterDraw_pixel (r : Fin 32) (c : Fin 64) :
    (s.afterDraw x y n).fb.pixel r c = true ↔ (s.fb.pixel r c = true ↔ ¬ s.Covers x y n r c) := by
  have hn := n.isLt
  exact Canvas.plotSprite_pixel s.mem s.base _ _ (s.fb, false) r c n.toNat (by omega)

theorem State.canvas_hit : (s.canvas x y n).2 = true ↔ s.Collides x y n := by
  have hn := n.isLt
  exact (Canvas.plotSprite_hit s.mem s.base _ _ (s.fb, false) n.toNat (by omega)).trans (or_iff_right Bool.false_ne_true)

/-- VF after a draw. -/
theorem State.afterDraw_flag : (s.afterDraw x y n).getV 0xF = flagByte (s.canvas x y n).2 :=
  State.setV_getV _ flagReg _ flagReg

theorem State.afterDraw_flag_of_collides (h : s.Collides x y n) : (s.afterDraw x y n).getV 0xF = 1 := by
  rw [State.afterDraw_flag, State.canvas_hit.2 h]; rfl

theorem State.afterDraw_flag_of_not_collides (h : ¬ s.Collides x y n) : (s.afterDraw x y n).getV 0xF = 0 := by
  rw [State.afterDraw_flag, Bool.eq_false_iff.2 (mt State.canvas_hit.1 h)]; rfl

theorem State.not_collides (h : ∀ r c, s.Covers x y n r c → s.fb.pixel r c = false) : ¬ s.Collides x y n := by
  rintro ⟨r, c, hcov, hset⟩
  exact absurd hset (by rw [h r c hcov]; decide)

/-! ### Two draws -/

/-- A second draw covers the same cells when VF is not one of its coordinates, or holds what it held. -/
theorem State.afterDraw_covers (hx : (s.afterDraw x y n).getV x = s.getV x) (hy : (s.afterDraw x y n).getV y = s.getV y)
    (r : Fin 32) (c : Fin 64) : (s.afterDraw x y n).Covers x y n r c ↔ s.Covers x y n r c := by
  unfold State.Covers
  rw [hx, hy]
  exact Iff.rfl

/-- A sprite with a 1 bit covers a cell. -/
theorem State.exists_covered (h : ∃ dr dc, dr < n.toNat ∧ dc < 8 ∧ (s.mem.read (s.base + dr)).getLsbD dc = true) :
    ∃ r c, s.Covers x y n r c := by
  obtain ⟨dr, dc, hdr, hdc, hbit⟩ := h
  refine ⟨spriteRow (s.getV y) dr, spriteCol (s.getV x) (7 - dc), dr, 7 - dc, hdr, by omega, rfl, rfl, ?_⟩
  rwa [show 7 - (7 - dc) = dc by omega]

/-- A covered cell that was clear is set after the draw. -/
theorem State.afterDraw_pixel_of_covered {r : Fin 32} {c : Fin 64} (hcov : s.Covers x y n r c)
    (hclear : s.fb.pixel r c = false) :
    (s.afterDraw x y n).fb.pixel r c = true := by
  simp [State.afterDraw_pixel, hcov, hclear]

end

/-! ### The statements -/

/-- Settles O38: the loops flip the covered cells and find the collision, and VF is written after the coordinates are read. -/
theorem drawFlipsTheCoveredCells : Obligations.DrawFlipsTheCoveredCells := by
  intro x y n s
  refine ⟨fun h => ⟨s.afterDraw x y n, exec_drw_of_le ?_, State.afterDraw_pixel, State.afterDraw_flag_of_collides,
    fun hclear => State.afterDraw_flag_of_not_collides (State.not_collides hclear), fun r hr => ?_, rfl, rfl, ?_⟩,
    fun h => exists_fault (if_pos h) (by decide)⟩
  · unfold State.base; omega
  · rw [State.afterDraw, State.advance_getV, State.setRedraw_getV, State.setV_getV, if_neg (show r ≠ flagReg from hr),
      State.setFb_getV]
  · simp [State.afterDraw]

/-- Settles O39: the second draw covers the same cells, so it flips them back; a covered cell is set before one of the two
draws. -/
theorem drawTwiceRestoresTheScreen : Obligations.DrawTwiceRestoresTheScreen := by
  intro x y n s h
  refine ⟨s.afterDraw x y n, exec_drw_of_le h, fun hx hy =>
    ⟨(s.afterDraw x y n).afterDraw x y n, exec_drw_of_le h, ?_, ?_⟩⟩
  · intro r c
    rw [Bool.eq_iff_iff, State.afterDraw_pixel, State.afterDraw_pixel, State.afterDraw_covers hx hy]
    by_cases hcov : s.Covers x y n r c <;> simp [hcov]
  · intro hbit
    obtain ⟨r, c, hcov⟩ := State.exists_covered (x := x) (y := y) hbit
    have hsecond : s.fb.pixel r c = false → (s.afterDraw x y n).Collides x y n := fun hclear =>
      ⟨r, c, (State.afterDraw_covers hx hy r c).2 hcov, State.afterDraw_pixel_of_covered hcov hclear⟩
    refine ⟨?_, fun hclear => ⟨State.afterDraw_flag_of_not_collides (State.not_collides hclear),
      State.afterDraw_flag_of_collides (hsecond (hclear r c hcov))⟩⟩
    cases hset : s.fb.pixel r c with
    | true => exact .inl (State.afterDraw_flag_of_collides ⟨r, c, hcov, hset⟩)
    | false => exact .inr (State.afterDraw_flag_of_collides (hsecond hset))

/-- The output is the flattened framebuffer. -/
theorem State.outFb_eq (s : State) : s.outFb = s.fb.flatten.toList := by
  change _ = (Array.map Vector.toArray s.fb.toArray).flatten.toList
  rw [Array.toList_flatten, Array.toList_map, List.map_map]
  rfl

/-- Settles O40: element `k` of a flattened framebuffer stands in row `k / 64`, column `k % 64`. -/
theorem outputFbIsRowMajor : Obligations.OutputFbIsRowMajor := by
  intro s r c
  have hr := r.isLt
  have hc := c.isLt
  have hk : 64 * r.val + c.val < 32 * 64 := by omega
  have hrow : (64 * r.val + c.val) / 64 = r.val := by omega
  have hcol : (64 * r.val + c.val) % 64 = c.val := by omega
  rw [State.outFb_eq]
  refine ⟨Vector.length_toList, ?_⟩
  rw [Vector.getElem?_toList, Vector.getElem?_eq_getElem hk, Vector.getElem_flatten hk]
  simp only [hrow, hcol]
  rfl

end Sys2Proof.Machine
end

section
/-! Timers, keys and the host's transitions: the timer instructions, the key wait, `KeyEvent`, `Reset`, `Load` and `AckRedraw`
(rules R143, R152 to R156, R190 to R194). -/

namespace Sys2Proof.Machine

/-! ### Timer instructions and the key wait -/

/-- Settles O41: one register or one timer is written, and the instruction advances. -/
theorem timerReadsAndWrites : Obligations.TimerReadsAndWrites := fun x s =>
  ⟨State.exists_of_eq_setV_advance (exec_ldVxDT x s), ⟨_, exec_ldDTVx x s, rfl, rfl, by simp⟩,
    ⟨_, exec_ldSTVx x s, rfl, rfl, by simp⟩⟩

/-- Settles O42: only `WAIT` is written. -/
theorem keyWaitIsEntered : Obligations.KeyWaitIsEntered := fun x s => ⟨_, exec_ldVxK x s, rfl, rfl, by simp⟩

/-! ### Key events -/

/-- The state with the host's level in the latch (rule R156). -/
def State.latched (s : State) (k : Fin 16) (pressed : Bool) : State := s.setKey (s.key.set k pressed)

theorem State.keyEvent_of_outside {s : State} {k : Int} (h : k < 0 ∨ 15 < k) (pressed : Bool) :
    s.keyEvent k pressed = (s, .rejected) := by
  unfold State.keyEvent
  rw [dif_neg (by omega)]

/-- An event with a legal index answers `OK`: a press edge resolves the key wait, any other event writes the latch only. -/
theorem State.keyEvent_fin (s : State) (k : Fin 16) (pressed : Bool) :
    s.keyEvent k.val pressed =
      (if pressed = true ∧ s.key[k] = false then (s.latched k pressed).resolveWait (BitVec.ofNat 8 k.val)
        else s.latched k pressed, .ok) := by
  have hk := k.isLt
  unfold State.keyEvent
  rw [dif_pos (by omega)]
  simp [State.latched]

theorem State.resolveWait_key (s : State) (b : Byte) : (s.resolveWait b).key = s.key := by
  unfold State.resolveWait
  split <;> simp

theorem State.resolveWait_of_waiting {s : State} {r : RegIdx} (h : s.wait = .awaitingKey r) (b : Byte) :
    s.resolveWait b = ((s.setV r b).advance).setWait .running := by
  unfold State.resolveWait
  rw [h]

theorem State.resolveWait_of_running {s : State} (h : s.wait = .running) (b : Byte) : s.resolveWait b = s := by
  unfold State.resolveWait
  rw [h]

/-- The latch follows the host, edge or not. -/
theorem State.keyEvent_key (s : State) (k j : Fin 16) (pressed : Bool) :
    (s.keyEvent k.val pressed).1.key[j] = if j = k then pressed else s.key[j] := by
  have hset : (s.latched k pressed).key[j] = if j = k then pressed else s.key[j] := by
    simp [State.latched, Vector.getElem_set, Fin.ext_iff, eq_comm]
  rw [State.keyEvent_fin]
  split
  · rw [← hset]; simp [State.resolveWait_key]
  · exact hset

/-- A press edge in a key wait: the key index to the waiting register, `PC + 2`, `Running`. -/
theorem State.keyEvent_of_edge {s : State} {k : Fin 16} {r : RegIdx} (hwait : s.wait = .awaitingKey r) (hup : s.key[k] = false) :
    (s.keyEvent k.val true).1 = (((s.latched k true).setV r (BitVec.ofNat 8 k.val)).advance).setWait .running := by
  rw [State.keyEvent_fin, if_pos ⟨rfl, hup⟩]
  exact State.resolveWait_of_waiting (s := s.latched k true) hwait _

/-- Any other event writes the latch only. -/
theorem State.keyEvent_of_no_edge {s : State} {k : Fin 16} {pressed : Bool}
    (h : s.wait = .running ∨ pressed = false ∨ s.key[k] = true) : (s.keyEvent k.val pressed).1 = s.latched k pressed := by
  rw [State.keyEvent_fin]
  split
  · next hedge =>
    have hwait : s.wait = .running := by simpa [hedge] using h
    exact State.resolveWait_of_running (s := s.latched k pressed) hwait _
  · rfl

/-- Settles O43: the latch is written first, and only an edge in a key wait does more. -/
theorem keyEventUpdatesLatchAndResolvesWait : Obligations.KeyEventUpdatesLatchAndResolvesWait := by
  refine ⟨fun s k pressed h => State.keyEvent_of_outside h pressed,
    fun s k pressed => ⟨?_, fun j => s.keyEvent_key k j pressed, ?_, fun h => ?_⟩⟩
  · rw [State.keyEvent_fin]
  · rintro r hwait rfl hup
    rw [State.keyEvent_of_edge hwait hup]
    exact ⟨(s.latched k true).setV_getV r _, rfl, rfl, by simp [State.latched]⟩
  · rw [State.keyEvent_of_no_edge h]
    simp [State.latched]

/-! ### Reset, load, acknowledgement -/

theorem State.reset_read_font {a : Nat} (h : a < 80) : State.reset.mem.read a = Config.font[a] := dif_pos h

theorem State.reset_read_zero {a : Nat} (h : 80 ≤ a) : State.reset.mem.read a = 0 := dif_neg (Nat.not_lt.2 h)

/-- Settles O49: `Reset` leaves `State.reset` but for the count of draws, whose memory lists no cell. -/
theorem resetValuesOfTheSource : Obligations.ResetValuesOfTheSource := by
  rintro s t (rfl | rfl) <;>
    exact ⟨fun _ h => State.reset_read_font h, fun _ h => State.reset_read_zero h, rfl, rfl, rfl, rfl, rfl⟩

theorem State.reset_getV (r : RegIdx) : State.reset.getV r = 0 := Vector.getElem_replicate _

theorem State.reset_pixel (r : Fin 32) (c : Fin 64) : State.reset.fb.pixel r c = false := Screen.pixel_blank r c

/-- Settles O50: `Reset` leaves `State.reset` but for the count of draws, whose cells are replicated zeros. -/
theorem resetValuesOfTheDecisions : Obligations.ResetValuesOfTheDecisions := by
  rintro s t (rfl | rfl) <;>
    exact ⟨State.reset_getV, rfl, fun _ => Vector.getElem_replicate _, State.reset_pixel,
      fun _ => Vector.getElem_replicate _, rfl, rfl, rfl, rfl, rfl, rfl⟩

/-- A program that fits is written from 0x200 on (rule R192). -/
theorem State.load_of_fits {bytes : List Byte} (h : bytes.length ≤ 3584) (s : State) :
    s.load bytes = (s.setMem (s.mem.writeBlock 0x200 bytes), .ok) := if_neg (Nat.not_lt.2 h)

theorem State.load_read {s : State} (hmem : s.mem.wf = true) {bytes : List Byte} (h : bytes.length ≤ 3584) {k : Nat}
    (hk : k < bytes.length) : (s.load bytes).1.mem.read (0x200 + k) = bytes[k] := by
  rw [State.load_of_fits h]
  exact Memory.read_writeBlock_inside hk hmem (by omega)

theorem State.load_read_outside (s : State) {bytes : List Byte} (h : bytes.length ≤ 3584) {a : Nat}
    (ha : a < 0x200 ∨ 0x200 + bytes.length ≤ a) : (s.load bytes).1.mem.read a = s.mem.read a := by
  rw [State.load_of_fits h]
  exact Memory.read_writeBlock_outside ha

theorem State.load_onlyChanges (s : State) {bytes : List Byte} (h : bytes.length ≤ 3584) :
    OnlyChanges [.memory] s (s.load bytes).1 := by
  rw [State.load_of_fits h]
  simp

/-- Settles O51: a block write from 0x200 on, or the latch and no write. -/
theorem loadCopiesTheProgram : Obligations.LoadCopiesTheProgram := by
  refine fun s bytes hmem => ⟨fun h => ⟨?_, fun k hk => State.load_read hmem h hk, fun a ha => s.load_read_outside h ha,
    s.load_onlyChanges h⟩, fun h => ?_⟩
  · rw [State.load_of_fits h]
  · rw [State.load_of_too_large h]
    exact ⟨rfl, rfl, by simp⟩

/-- Settles O52: the load of the state after reset, whose `PC` is where the program begins. -/
theorem launchStateHoldsTheProgram : Obligations.LaunchStateHoldsTheProgram := by
  intro bytes h
  have hinside : ∀ (k : Nat) (hk : k < bytes.length), (launch bytes).mem.read (0x200 + k) = bytes[k] := fun k hk =>
    State.load_read Memory.wf_nil h hk
  have hpc : (launch bytes).pc = 0x200 := State.load_onlyChanges State.reset h .pc (by decide)
  refine ⟨fun a ha => ?_, hinside, fun a ha hout => ?_, State.load_onlyChanges State.reset h, fun htwo => ?_⟩
  · rw [launch, State.load_read_outside _ h (by omega), State.reset_read_font ha]
  · rw [launch, State.load_read_outside _ h hout, State.reset_read_zero ha]
  · rw [State.fetch_eq_some, hpc]
    exact ⟨by decide, (congrArg₂ wordOfBytes (hinside 0 (by omega)) (hinside 1 (by omega))).symm⟩

/-- Settles O53: only `REDRAW` is written. -/
theorem ackRedrawClearsRedraw : Obligations.AckRedrawClearsRedraw := fun s => ⟨rfl, by simp [State.ackRedraw]⟩

end Sys2Proof.Machine
end
